-- ==== Sys2Proof/Word.lean ====
section
/-! DEFINITION. The machine's word types. Every value of the machine is unsigned (00_scope.md R10). -/

namespace Sys2Proof

/-- A general register, a timer, a byte of memory (10_state.md R21, R26; 20_memory.md R50). -/
abbrev Byte := BitVec 8

/-- The program counter, the index register, a stack entry, an instruction word (R22, R24, R25, R70). -/
abbrev Word := BitVec 16

/-- The address literal `nnn` of an instruction (30_encoding.md R71). -/
abbrev Addr12 := BitVec 12

/-- The generator's state (10_state.md R30). -/
abbrev RngWord := BitVec 64

/-- A general register's number, 0 to 15 (10_state.md R21). -/
abbrev Reg := Fin 16

/-- A sprite's row count `n`, 0 to 15 (30_encoding.md R73). -/
abbrev RowCount := Fin 16

/-- The number of bytes of the one address space (20_memory.md R50). -/
def memSize : Nat := 4096

end Sys2Proof
end

