-- ==== Sys2Proof/Syntax.lean ====
section
/-! DEFINITION. The instructions: one constructor per row of spec/opcode_table.json, in the table's order. -/

namespace Sys2Proof

/-- An instruction with its operands (30_encoding.md R76). -/
inductive Instr
  | cls                               -- CLS            00E0
  | ret                               -- RET            00EE
  | jp (nnn : Addr12)                 -- JP_nnn         1nnn
  | call (nnn : Addr12)               -- CALL_nnn       2nnn
  | seImm (x : Reg) (nn : Byte)       -- SE_Vx__nn      3xnn
  | sneImm (x : Reg) (nn : Byte)      -- SNE_Vx__nn     4xnn
  | seReg (x y : Reg)                 -- SE_Vx__Vy      5xy0
  | sneReg (x y : Reg)                -- SNE_Vx__Vy     9xy0
  | ldImm (x : Reg) (nn : Byte)       -- LD_Vx__nn      6xnn
  | addImm (x : Reg) (nn : Byte)      -- ADD_Vx__nn     7xnn
  | ldReg (x y : Reg)                 -- LD_Vx__Vy      8xy0
  | orReg (x y : Reg)                 -- OR_Vx__Vy      8xy1
  | andReg (x y : Reg)                -- AND_Vx__Vy     8xy2
  | xorReg (x y : Reg)                -- XOR_Vx__Vy     8xy3
  | addReg (x y : Reg)                -- ADD_Vx__Vy     8xy4
  | subReg (x y : Reg)                -- SUB_Vx__Vy     8xy5
  | subnReg (x y : Reg)               -- SUBN_Vx__Vy    8xy7
  | shr (x y : Reg)                   -- SHR_Vx__Vy     8xy6
  | shl (x y : Reg)                   -- SHL_Vx__Vy     8xyE
  | ldI (nnn : Addr12)                -- LD_I__nnn      annn
  | jpV0 (nnn : Addr12)               -- JP_V0__nnn     bnnn
  | rnd (x : Reg) (nn : Byte)         -- RND_Vx__nn     cxnn
  | drw (x y : Reg) (n : RowCount)    -- DRW_Vx__Vy__n  dxyn
  | skp (x : Reg)                     -- SKP_Vx         ex9E
  | sknp (x : Reg)                    -- SKNP_Vx        exA1
  | ldVxDt (x : Reg)                  -- LD_Vx__DT      fx07
  | ldDtVx (x : Reg)                  -- LD_DT__Vx      fx15
  | ldStVx (x : Reg)                  -- LD_ST__Vx      fx18
  | ldVxK (x : Reg)                   -- LD_Vx__K       fx0A
  | addI (x : Reg)                    -- ADD_I__Vx      fx1E
  | ldF (x : Reg)                     -- LD_F__Vx       fx29
  | ldB (x : Reg)                     -- LD_B__Vx       fx33
  | storeRegs (x : Reg)               -- LD__I___Vx     fx55
  | loadRegs (x : Reg)                -- LD_Vx___I      fx65
  /-- NOP: the word itself, one of those no other pattern matches (R77; log 29). -/
  | nop (w : Word)                    -- NOP            any other word
deriving DecidableEq, Repr

end Sys2Proof
end

