-- ==== Sys2Proof/WellFormed.lean ====
section
/-! DEFINITION. Well-formed instructions. Every operand's range is in its type; what is left to check is that the word
a NOP carries is one of the unmatched words, which 30_encoding.md R77 lists family by family. -/

namespace Sys2Proof

/-- The table of 30_encoding.md R77: the words that match no pattern, by their top nibble. -/
def unmatchedWord (w : Word) : Bool :=
  let n := (w.extractLsb' 0 4).toNat
  let nn := (w.extractLsb' 0 8).toNat
  match (w.extractLsb' 12 4).toNat with
  | 0x0 => w != 0x00E0 && w != 0x00EE
  | 0x5 => n != 0
  | 0x8 => [0x8, 0x9, 0xA, 0xB, 0xC, 0xD, 0xF].contains n
  | 0x9 => n != 0
  | 0xE => !([0x9E, 0xA1].contains nn)
  | 0xF => !([0x07, 0x0A, 0x15, 0x18, 0x1E, 0x29, 0x33, 0x55, 0x65].contains nn)
  | _ => false

/-- A NOP's word is unmatched (R77); no other instruction has an operand its type does not bound (R73). -/
def Instr.wf : Instr → Bool
  | .nop w => unmatchedWord w
  | .cls | .ret | .jp _ | .call _ | .seImm _ _ | .sneImm _ _ | .seReg _ _ | .sneReg _ _ => true
  | .ldImm _ _ | .addImm _ _ | .ldReg _ _ | .orReg _ _ | .andReg _ _ | .xorReg _ _ => true
  | .addReg _ _ | .subReg _ _ | .subnReg _ _ | .shr _ _ | .shl _ _ => true
  | .ldI _ | .jpV0 _ | .rnd _ _ | .drw _ _ _ | .skp _ | .sknp _ => true
  | .ldVxDt _ | .ldDtVx _ | .ldStVx _ | .ldVxK _ | .addI _ | .ldF _ | .ldB _ => true
  | .storeRegs _ | .loadRegs _ => true

end Sys2Proof
end

