-- ==== Sys2Proof/Decode.lean ====
section
/-! DEFINITION. Decoding (30_encoding.md R70 to R79) and, after it, encoding (R82). -/

namespace Sys2Proof

/-! The fields of a word (R71). -/

/-- `x = w[11:8]`. -/
def fieldX (w : Word) : Reg := (w.extractLsb' 8 4).toFin
/-- `y = w[7:4]`. -/
def fieldY (w : Word) : Reg := (w.extractLsb' 4 4).toFin
/-- `n = w[3:0]`. -/
def fieldN (w : Word) : RowCount := (w.extractLsb' 0 4).toFin
/-- `nn = w[7:0]`. -/
def fieldNN (w : Word) : Byte := w.extractLsb' 0 8
/-- `nnn = w[11:0]`. -/
def fieldNNN (w : Word) : Addr12 := w.extractLsb' 0 12

/-- A row of the opcode map: a word `w` matches it when `w & mask = pattern` (R74). -/
structure OpcodeRow where
  pattern : Word
  mask : Word
  build : Word → Instr

def OpcodeRow.accepts (r : OpcodeRow) (w : Word) : Bool := w &&& r.mask == r.pattern

/-- The FIXED and NNN rows and the XNN rows below family 8, in the order of the spec's table (R76). -/
def opcodeRowsLow : List OpcodeRow :=
  [⟨0x00E0, 0xFFFF, fun _ => .cls⟩,
   ⟨0x00EE, 0xFFFF, fun _ => .ret⟩,
   ⟨0x1000, 0xF000, fun w => .jp (fieldNNN w)⟩,
   ⟨0x2000, 0xF000, fun w => .call (fieldNNN w)⟩,
   ⟨0x3000, 0xF000, fun w => .seImm (fieldX w) (fieldNN w)⟩,
   ⟨0x4000, 0xF000, fun w => .sneImm (fieldX w) (fieldNN w)⟩,
   ⟨0x5000, 0xF00F, fun w => .seReg (fieldX w) (fieldY w)⟩,
   ⟨0x9000, 0xF00F, fun w => .sneReg (fieldX w) (fieldY w)⟩,
   ⟨0x6000, 0xF000, fun w => .ldImm (fieldX w) (fieldNN w)⟩,
   ⟨0x7000, 0xF000, fun w => .addImm (fieldX w) (fieldNN w)⟩]

/-- The rows of family 8 (R76). -/
def opcodeRowsAlu : List OpcodeRow :=
  [⟨0x8000, 0xF00F, fun w => .ldReg (fieldX w) (fieldY w)⟩,
   ⟨0x8001, 0xF00F, fun w => .orReg (fieldX w) (fieldY w)⟩,
   ⟨0x8002, 0xF00F, fun w => .andReg (fieldX w) (fieldY w)⟩,
   ⟨0x8003, 0xF00F, fun w => .xorReg (fieldX w) (fieldY w)⟩,
   ⟨0x8004, 0xF00F, fun w => .addReg (fieldX w) (fieldY w)⟩,
   ⟨0x8005, 0xF00F, fun w => .subReg (fieldX w) (fieldY w)⟩,
   ⟨0x8007, 0xF00F, fun w => .subnReg (fieldX w) (fieldY w)⟩,
   ⟨0x8006, 0xF00F, fun w => .shr (fieldX w) (fieldY w)⟩,
   ⟨0x800E, 0xF00F, fun w => .shl (fieldX w) (fieldY w)⟩]

/-- The rows of families A to F (R76). -/
def opcodeRowsHigh : List OpcodeRow :=
  [⟨0xA000, 0xF000, fun w => .ldI (fieldNNN w)⟩,
   ⟨0xB000, 0xF000, fun w => .jpV0 (fieldNNN w)⟩,
   ⟨0xC000, 0xF000, fun w => .rnd (fieldX w) (fieldNN w)⟩,
   ⟨0xD000, 0xF000, fun w => .drw (fieldX w) (fieldY w) (fieldN w)⟩,
   ⟨0xE09E, 0xF0FF, fun w => .skp (fieldX w)⟩,
   ⟨0xE0A1, 0xF0FF, fun w => .sknp (fieldX w)⟩,
   ⟨0xF007, 0xF0FF, fun w => .ldVxDt (fieldX w)⟩,
   ⟨0xF015, 0xF0FF, fun w => .ldDtVx (fieldX w)⟩,
   ⟨0xF018, 0xF0FF, fun w => .ldStVx (fieldX w)⟩,
   ⟨0xF00A, 0xF0FF, fun w => .ldVxK (fieldX w)⟩,
   ⟨0xF01E, 0xF0FF, fun w => .addI (fieldX w)⟩,
   ⟨0xF029, 0xF0FF, fun w => .ldF (fieldX w)⟩,
   ⟨0xF033, 0xF0FF, fun w => .ldB (fieldX w)⟩,
   ⟨0xF055, 0xF0FF, fun w => .storeRegs (fieldX w)⟩,
   ⟨0xF065, 0xF0FF, fun w => .loadRegs (fieldX w)⟩]

/-- The 34 patterns of R76. -/
def opcodeTable : List OpcodeRow := opcodeRowsLow ++ opcodeRowsAlu ++ opcodeRowsHigh

/-- The instruction a word stands for: total, a word no pattern matches being a NOP (R74, R77). -/
def decodeWord (w : Word) : Instr :=
  match opcodeTable.find? (·.accepts w) with
  | some r => r.build w
  | none => .nop w

/-- Why bytes are no instruction: no word is illegal (R78), so only a missing byte. -/
inductive DecodeError
  | truncated
deriving DecidableEq, Repr

/-- The word of two consecutive bytes, the first its high byte (20_memory.md R55). -/
def wordOfBytes (hi lo : Byte) : Word := hi ++ lo

/-- Decoding from bytes: the instruction at their head and the bytes after it (R70). -/
def decode : List Byte → Except DecodeError (Instr × List Byte)
  | hi :: lo :: rest => .ok (decodeWord (wordOfBytes hi lo), rest)
  | _ => .error .truncated

/-! Encoding (R82): `match | (x << 8) | (y << 4) | n`, `match | (x << 8) | nn`, `match | nnn`. -/

def placeX (x : Reg) : Word := BitVec.ofNat 16 x.val <<< 8
def placeY (y : Reg) : Word := BitVec.ofNat 16 y.val <<< 4
def placeN (n : RowCount) : Word := BitVec.ofNat 16 n.val
def placeNN (nn : Byte) : Word := nn.zeroExtend 16
def placeNNN (nnn : Addr12) : Word := nnn.zeroExtend 16

/-- The word of an instruction (R82). -/
def encode : Instr → Word
  | .cls => 0x00E0
  | .ret => 0x00EE
  | .jp nnn => 0x1000 ||| placeNNN nnn
  | .call nnn => 0x2000 ||| placeNNN nnn
  | .seImm x nn => 0x3000 ||| placeX x ||| placeNN nn
  | .sneImm x nn => 0x4000 ||| placeX x ||| placeNN nn
  | .seReg x y => 0x5000 ||| placeX x ||| placeY y
  | .sneReg x y => 0x9000 ||| placeX x ||| placeY y
  | .ldImm x nn => 0x6000 ||| placeX x ||| placeNN nn
  | .addImm x nn => 0x7000 ||| placeX x ||| placeNN nn
  | .ldReg x y => 0x8000 ||| placeX x ||| placeY y
  | .orReg x y => 0x8001 ||| placeX x ||| placeY y
  | .andReg x y => 0x8002 ||| placeX x ||| placeY y
  | .xorReg x y => 0x8003 ||| placeX x ||| placeY y
  | .addReg x y => 0x8004 ||| placeX x ||| placeY y
  | .subReg x y => 0x8005 ||| placeX x ||| placeY y
  | .subnReg x y => 0x8007 ||| placeX x ||| placeY y
  | .shr x y => 0x8006 ||| placeX x ||| placeY y
  | .shl x y => 0x800E ||| placeX x ||| placeY y
  | .ldI nnn => 0xA000 ||| placeNNN nnn
  | .jpV0 nnn => 0xB000 ||| placeNNN nnn
  | .rnd x nn => 0xC000 ||| placeX x ||| placeNN nn
  | .drw x y n => 0xD000 ||| placeX x ||| placeY y ||| placeN n
  | .skp x => 0xE09E ||| placeX x
  | .sknp x => 0xE0A1 ||| placeX x
  | .ldVxDt x => 0xF007 ||| placeX x
  | .ldDtVx x => 0xF015 ||| placeX x
  | .ldStVx x => 0xF018 ||| placeX x
  | .ldVxK x => 0xF00A ||| placeX x
  | .addI x => 0xF01E ||| placeX x
  | .ldF x => 0xF029 ||| placeX x
  | .ldB x => 0xF033 ||| placeX x
  | .storeRegs x => 0xF055 ||| placeX x
  | .loadRegs x => 0xF065 ||| placeX x
  | .nop w => w

/-- The high byte of a word, the one at the lower address (20_memory.md R55). -/
def highByte (w : Word) : Byte := w.extractLsb' 8 8
/-- The low byte of a word. -/
def lowByte (w : Word) : Byte := w.extractLsb' 0 8

/-- An instruction's bytes as they lie in memory (20_memory.md R55, R82). -/
def encodeBytes (i : Instr) : List Byte := [highByte (encode i), lowByte (encode i)]

/-- The word of an opcode-table instruction whose bits are `w` (bit 0 the least significant): its low `nbits` bits,
zeros above. -/
def tableWord (nbits w : Nat) : Word := BitVec.ofNat 16 (w % 2 ^ nbits)

/-- The instruction the decoder reads from the bytes of `tableWord nbits w`, laid out as memory holds them. -/
def decodeTableWord (nbits w : Nat) : Option Instr :=
  match decode [highByte (tableWord nbits w), lowByte (tableWord nbits w)] with
  | .ok (i, _) => some i
  | .error _ => none

end Sys2Proof
end

