-- ==== Sys2Proof/Config.lean ====
section
/-! DEFINITION. What is fixed for one machine (00_scope.md R9) and the free values, which no proof can see. -/

namespace Sys2Proof

/-- What a fetch at an odd `pc` does (20_memory.md R57, 92_eei_decisions.md D6). -/
inductive OddPcPolicy
  | fault    -- raise `OddPc`, the spec's default
  | execute  -- fetch the two bytes at the odd address and carry on
deriving DecidableEq, Repr

/-- The implementation parameters the spec leaves open (00_scope.md R9). They are constants of a machine, held in
State so that a statement about every state holds for every value of them (log 5). -/
structure Params where
  /-- `WIDTH`, framebuffer columns (44_display.md R140). -/
  width : Nat
  /-- `HEIGHT`, framebuffer rows (44_display.md R140). -/
  height : Nat
  /-- `STACK_DEPTH`, the call stack's bound, or none (10_state.md R25). -/
  stackDepth : Option Nat
  /-- `SHIFT_COPY_POLARITY`, the value of `Q` under which 8xy6 and 8xyE copy `v[y]` (42_alu.md R120). -/
  shiftCopyPolarity : Bool
  /-- `ODD_PC_POLICY` (20_memory.md R57). -/
  oddPcPolicy : OddPcPolicy
deriving DecidableEq, Repr

namespace Config

/-- The defaults of 00_scope.md R9. PRESUMED: 64 and 32 are the spec's own general knowledge (log 5).
DESIGN CHOICE of the spec: the other three (log 18, 12, 15). -/
def defaultParams : Params :=
  { width := 64, height := 32, stackDepth := none, shiftCopyPolarity := true, oddPcPolicy := .fault }

/-- The strap `QUIRK` of State.reset, the value of the spec's base state (95_test_vectors.md). DESIGN CHOICE (log 11):
either value is legal, and `State.construct` takes both. -/
def quirk : Bool := false

/-- The default `GLYPHS` table, 16 glyphs of 5 bytes, top row first (20_memory.md R53). PRESUMED (log 7). -/
def glyphs : List Byte :=
  [0xF0, 0x90, 0x90, 0x90, 0xF0] ++ [0x20, 0x60, 0x20, 0x20, 0x70] ++
  [0xF0, 0x10, 0xF0, 0x80, 0xF0] ++ [0xF0, 0x10, 0xF0, 0x10, 0xF0] ++
  [0x90, 0x90, 0xF0, 0x10, 0x10] ++ [0xF0, 0x80, 0xF0, 0x10, 0xF0] ++
  [0xF0, 0x80, 0xF0, 0x90, 0xF0] ++ [0xF0, 0x10, 0x20, 0x40, 0x40] ++
  [0xF0, 0x90, 0xF0, 0x90, 0xF0] ++ [0xF0, 0x90, 0xF0, 0x10, 0xF0] ++
  [0xF0, 0x90, 0xF0, 0x90, 0x90] ++ [0xE0, 0x90, 0xE0, 0x90, 0xE0] ++
  [0xF0, 0x80, 0x80, 0x80, 0xF0] ++ [0xE0, 0x90, 0x90, 0x90, 0xE0] ++
  [0xF0, 0x80, 0xF0, 0x80, 0xF0] ++ [0xF0, 0x80, 0xF0, 0x80, 0x80]

/-- `SEED`: any 64-bit value, zero included (10_state.md R39, 93 U9). A free value (log 10). -/
opaque seed : RngWord

/-- Whether the host's next event is a TICK, where the event queue does not give it: the host may choose any interleaving
of STEP and TICK, finite or infinite (46_keys_and_timers.md R169, 93 U16). A free value (log 1). -/
opaque freeTick : Nat → Bool

/-- `KEY_PRESSED` of a STEP whose key arrays the event queue does not give: any value (R35, 93 U25). A free value (log 2). -/
opaque freePressed : Nat → BitVec 16

/-- `KEY_RELEASED` of such a STEP: any value, unrelated to `freePressed` (R35, 93 U25). A free value (log 2). -/
opaque freeReleased : Nat → BitVec 16

/-- Which of several released keys fx0A stores (46_keys_and_timers.md R166, 93 U8). A free value (log 22). -/
opaque freeKeyChoice : Nat → Nat

end Config

end Sys2Proof
end

