-- ==== Sys2Proof/Machine/State.lean ====
section
/-! DEFINITION. The machine's state as plain data, the reasons a step stops, and the state after reset. -/

namespace Sys2Proof.Machine

/-- The kind of a memory access, recorded by a memory fault (20_memory.md R56). -/
inductive AccessKind
  | fetch
  | read
  | write
deriving DecidableEq, Repr

/-- The fatal conditions (60_exceptions.md R170). A step that meets one answers a next state with the cause in the latch
(R176); `step` answers `.fault` with the latched cause at every later event, which the machine does not accept (R177).
All are safe but for what each log entry named here says. -/
inductive Fault
  /-- Code 1, raised by 00EE at depth 0 (R171). Safe: the source's own. -/
  | emptyStackReturn
  /-- Code 2, raised by the fetch, dxyn, fx33, fx55 and fx65 for an address of 4096 or more: the lowest such address and
  the kind of access (R172). Safe (log 14). -/
  | memoryFault (address : Nat) (kind : AccessKind)
  /-- Code 3, raised by the fetch at an odd `pc` under `ODD_PC_POLICY = fault` (R173). Safe (log 15). -/
  | oddPc (pc : Word)
  /-- Code 4, raised by 2nnn at `depth = STACK_DEPTH` (R174). Safe (log 18). -/
  | stackOverflow
  /-- Code 5, raised by ex9E and exA1 when `v[x] > 15` (R178). Safe (log 21). -/
  | keyIndexFault (index : Byte)
  /-- Code 6, raised by fx1E when the sum does not fit 16 bits: the exact sum (R179). Safe (log 16). -/
  | indexOverflow (sum : Nat)
  /-- Code 7, latched by construction without entropy (R175). Safe: the source's own. -/
  | entropyUnavailable
deriving DecidableEq, Repr

/-- Why the model gives no meaning. No instruction is refused. -/
inductive Refusal
  /-- An instruction the model has no meaning for; no arm of `exec` answers this. Safe. -/
  | notModelled (mnemonic : String)
  /-- `State.construct` with a ROM of more than 3584 bytes, to which the spec gives no meaning (70 R191). Safe (log 26). -/
  | romTooLong (length : Nat)
  /-- `State.construct` with a glyph table of other than 80 bytes (20_memory.md R52). Safe (log 26). -/
  | glyphTableSize (length : Nat)
deriving DecidableEq, Repr

/-- What the host drives the core with, one at a time (00_scope.md R6, R7). -/
inductive HostEvent
  /-- `STEP` with `KEY_PRESSED` and `KEY_RELEASED`, bit `k` for key `k` (R35, R90). -/
  | step (pressed released : BitVec 16)
  /-- `TICK`, the timer decrement (46_keys_and_timers.md R168). -/
  | tick
deriving DecidableEq, Repr

/-- Memory: the bytes that differ from the reset content, as pairs with strictly rising addresses (log 27). -/
abbrev Memory := List Host.Cell

/-- The framebuffer: the cells that are on, strictly rising (log 6). -/
abbrev Screen := List Nat

/-- The machine state: the components of 10_state.md R20, the constants of the run, and the boundary signals. -/
structure State where
  /-- The 4096-byte address space (20_memory.md R50). -/
  mem : Memory
  /-- The program counter (R22). -/
  pc : Word
  /-- The index register (R24). -/
  i : Word
  /-- The general registers; `v[15]` is also the flag (R21, R23). -/
  v : Vector Byte 16
  /-- The call stack of return addresses, top first; `depth` is its length (R25). -/
  stack : List Word
  /-- `DT`, the delay timer (R26). -/
  dt : Byte
  /-- `ST`, the sound timer (R27). -/
  st : Byte
  /-- `FB`, the framebuffer (R28). -/
  fb : Screen
  /-- The generator's state (R30). -/
  rng : RngWord
  /-- `Q`, the quirk flag, constant (R33). -/
  q : Bool
  /-- The fault latch (R34). -/
  fault : Option Fault
  /-- The parameters of the run, constant (00_scope.md R9; log 5). -/
  params : Params
  /-- The model's own: `KEY_PRESSED` of the STEP under way (R35; log 3). -/
  pressed : BitVec 16
  /-- The model's own: `KEY_RELEASED` of the STEP under way (R35; log 3). -/
  released : BitVec 16
  /-- The model's own: the `CHANGED` value the last STEP returned, none if it returned none (R29, R96; log 4). -/
  changed : Option Bool
  /-- The model's own: the host events to come, next first; past its end the host's events are free (R7, R169; log 1). -/
  events : List HostEvent
  /-- The model's own: how many events have been taken, which picks fresh free values (log 2). -/
  draws : Nat
deriving DecidableEq, Repr

/-- The machine right after construction with the empty ROM, the strap `Config.quirk` and a free seed
(70_reset_and_hazards.md R190, 10_state.md R36 to R39). Memory lists nothing: an unlisted byte reads as its reset content.
`pc` is PRESUMED and the zeros are DESIGN CHOICE, both the spec's own (log 9); `events`, `pressed`, `released`, `changed`
and `draws` are the model's (log 1 to 4). -/
def State.reset : State :=
  { mem := [], pc := 0x0200, i := 0, v := Vector.replicate 16 0, stack := [], dt := 0, st := 0, fb := [],
    rng := Config.seed, q := Config.quirk, fault := none, params := Config.defaultParams,
    pressed := 0, released := 0, changed := none, events := [], draws := 0 }

end Sys2Proof.Machine
end

