-- ==== Sys2Proof/Machine/Ops.lean ====
section
/-! DEFINITION. The named operations over memory, registers, the stack, faults, host events and construction. -/

namespace Sys2Proof.Machine

/-! ## Memory (20_memory.md) -/

/-- What an address nothing has written reads as: a glyph byte at 0x050 to 0x09F, else zero (R52, R53). -/
def Memory.resetByte (a : Nat) : Byte :=
  if 0x050 ≤ a ∧ a < 0x0A0 then Config.glyphs.getD (a - 0x050) 0 else 0

/-- The byte at an address (R58). -/
def Memory.read (m : Memory) (a : Nat) : Byte :=
  match m with
  | [] => Memory.resetByte a
  | (c, b) :: rest => if c = a then b else Memory.read rest a

/-- A cell put in front, left out where the address already reads so with nothing listed. -/
def Memory.consCell (a : Nat) (b : Byte) (m : Memory) : Memory :=
  if b = Memory.resetByte a then m else (a, b) :: m

/-- Storing a byte (R54, R58), keeping the canonical form. -/
def Memory.write (m : Memory) (a : Nat) (b : Byte) : Memory :=
  match m with
  | [] => Memory.consCell a b []
  | (c, d) :: rest =>
    if a < c then Memory.consCell a b ((c, d) :: rest)
    else if a = c then Memory.consCell a b rest
    else (c, d) :: Memory.write rest a b

/-- Storing bytes at ascending addresses (R55). -/
def Memory.writeBytes (m : Memory) (a : Nat) : List Byte → Memory
  | [] => m
  | b :: bs => Memory.writeBytes (Memory.write m a b) (a + 1) bs

/-- The canonical form above a bound: addresses strictly rising from `lo`, inside the address space, and no entry equal
to the reset content (log 27). -/
def Memory.wfFrom (lo : Nat) : Memory → Bool
  | [] => true
  | (a, b) :: rest => lo ≤ a && a < memSize && b != Memory.resetByte a && Memory.wfFrom (a + 1) rest

/-- The canonical form of memory: equal memories are equal lists. -/
def Memory.wf (m : Memory) : Bool := Memory.wfFrom 0 m

/-- Whether `count` bytes from `base` all lie in the address space, the sum being exact (R56). -/
def accessInRange (base count : Nat) : Bool := count = 0 ∨ base + count ≤ memSize

/-- The fault of an access from `base` that is not in range: the lowest offending address and the kind (R56, R172). -/
def accessFault (base : Nat) (kind : AccessKind) : Fault := .memoryFault (max base memSize) kind

/-! ## Registers and the other plain components -/

/-- Read `v[k]` (10_state.md R21). -/
def State.reg (s : State) (k : Reg) : Byte := s.v[k]
/-- Write `v[k]` (R21). -/
def State.setReg (k : Reg) (b : Byte) (s : State) : State := { s with v := s.v.set k b }
/-- Replace the register file. -/
def State.setV (v : Vector Byte 16) (s : State) : State := { s with v := v }
/-- Write `pc`, unmasked (R22). -/
def State.setPc (a : Word) (s : State) : State := { s with pc := a }
/-- Write `i`, unmasked (R24). -/
def State.setI (a : Word) (s : State) : State := { s with i := a }
/-- Replace memory. -/
def State.setMem (m : Memory) (s : State) : State := { s with mem := m }
/-- Replace the call stack. -/
def State.setStack (k : List Word) (s : State) : State := { s with stack := k }
/-- Write `DT` (R26). -/
def State.setDt (b : Byte) (s : State) : State := { s with dt := b }
/-- Write `ST` (R27). -/
def State.setSt (b : Byte) (s : State) : State := { s with st := b }
/-- Replace the framebuffer. -/
def State.setFb (f : Screen) (s : State) : State := { s with fb := f }
/-- Write the generator's state (R30). -/
def State.setRng (r : RngWord) (s : State) : State := { s with rng := r }
/-- Set the `CHANGED` output (40_step_and_dispatch.md R96). -/
def State.setChanged (c : Option Bool) (s : State) : State := { s with changed := c }

/-- `depth`, the number of stack entries (R25). -/
def State.depth (s : State) : Nat := s.stack.length
/-- `push(e)` (R25). -/
def State.push (e : Word) (s : State) : State := s.setStack (e :: s.stack)
/-- `SOUND_ACTIVE`, the derived output that gates the tone (R27). -/
def State.soundActive (s : State) : Bool := s.st != 0

/-- Store bytes at ascending addresses; the caller has checked the range (20_memory.md R56). -/
def State.storeBytes (a : Nat) (bs : List Byte) (s : State) : State := s.setMem (s.mem.writeBytes a bs)

/-! ## Taking a fault (60_exceptions.md R170 to R177) -/

/-- The cause code of R170. -/
def Fault.code : Fault → Nat
  | .emptyStackReturn => 1
  | .memoryFault _ _ => 2
  | .oddPc _ => 3
  | .stackOverflow => 4
  | .keyIndexFault _ => 5
  | .indexOverflow _ => 6
  | .entropyUnavailable => 7

/-- Fault entry: the latch takes the cause and its information; no `CHANGED` value is returned; nothing else changes,
nothing is saved and control goes nowhere (R176; R96; log 13). -/
def State.latch (f : Fault) (s : State) : State := { s with fault := some f, changed := none }

/-- Fault entry from inside an instruction: the pre-increment of `pc` is discarded too, so `pc` is the address of the
faulting instruction (R176). An instruction raises before its first write, so there is nothing else to undo. -/
def raise (f : Fault) (s : State) : Host.Outcome State Fault Refusal := .next ((s.setPc (s.pc - 2)).latch f)

/-! ## The step's own parts (40_step_and_dispatch.md R90) -/

/-- Whether a fetch at this `pc` is one the machine refuses for its parity (20_memory.md R57). -/
def State.oddPcFaults (s : State) : Bool := s.pc.getLsbD 0 && s.params.oddPcPolicy == .fault

/-- The word at an address, high byte first (R55, R91). -/
def Memory.wordAt (m : Memory) (a : Nat) : Word := wordOfBytes (m.read a) (m.read (a + 1))

/-- The fetch: the parity check, then the bounds check, then the word (R90 steps 1 and 2, 60_exceptions.md R182). -/
def State.fetch (s : State) : Except Fault Word :=
  if s.oddPcFaults then .error (.oddPc s.pc)
  else if accessInRange s.pc.toNat 2 then .ok (s.mem.wordAt s.pc.toNat)
  else .error (accessFault s.pc.toNat .fetch)

/-- The key arrays a STEP samples (10_state.md R35; log 3). -/
def State.sampleKeys (pressed released : BitVec 16) (s : State) : State :=
  { s with pressed := pressed, released := released }

/-- The state an instruction runs in: the keys sampled, `pc` incremented by 2 (R92), and `CHANGED` 0 unless the
instruction sets it (R96). -/
def State.enterInstr (pressed released : BitVec 16) (s : State) : State :=
  ((s.sampleKeys pressed released).setPc (s.pc + 2)).setChanged (some false)

/-- `TICK`: each timer down by 1, never below 0, nothing else (46_keys_and_timers.md R168). -/
def State.tick (s : State) : State :=
  (s.setDt (if s.dt = 0 then 0 else s.dt - 1)).setSt (if s.st = 0 then 0 else s.st - 1)

/-- The host's next event: the queue's first, or where the queue is empty a free one, a TICK or a
STEP with free key arrays (46_keys_and_timers.md R169; log 1, log 2). -/
def State.nextEvent (s : State) : HostEvent :=
  match s.events with
  | e :: _ => e
  | [] =>
    if Config.freeTick s.draws then .tick else .step (Config.freePressed s.draws) (Config.freeReleased s.draws)

/-- The event leaves the queue, and the free values move on (log 1, log 2). -/
def State.takeEvent (s : State) : State := { s with events := s.events.tail, draws := s.draws + 1 }

/-! ## Construction (70_reset_and_hazards.md R190, R191) -/

/-- The largest ROM: 4096 - 512 bytes (R191). -/
def maxRomLen : Nat := 3584

/-- Memory after construction: zero, then the glyph table at 0x050, then the ROM at 0x200 (R190). Over the default
table nothing is listed, since an unlisted byte reads as its reset content. -/
def constructMemory (glyphs rom : List Byte) : Memory :=
  (Memory.writeBytes (Memory.writeBytes [] 0x050 glyphs) 0x200 rom)

/-- `RESET(QUIRK, SEED, SEED_VALID, rom)` with the parameters and the glyph table of R9. Without entropy the machine is
faulted from the start (60_exceptions.md R175, 93 U10; log 26). -/
def State.construct (params : Params) (glyphs : List Byte) (quirk : Bool) (seed : RngWord) (seedValid : Bool)
    (rom : List Byte) : Host.Outcome State Fault Refusal :=
  if glyphs.length ≠ 80 then .refused (.glyphTableSize glyphs.length)
  else if maxRomLen < rom.length then .refused (.romTooLong rom.length)
  else .next
    { State.reset with
      mem := constructMemory glyphs rom, rng := seed, q := quirk, params := params,
      fault := if seedValid then none else some .entropyUnavailable }

end Sys2Proof.Machine
end

