-- ==== Sys2Proof/Machine/Operands.lean ====
section
/-! DEFINITION. Operand forms: literals, the skip, the shift's source, the addresses and blocks of the memory
instructions, the jump offset, the key index. -/

namespace Sys2Proof.Machine

/-- `zext_16(nnn)` (30_encoding.md R73). -/
def literalAddr (nnn : Addr12) : Word := nnn.zeroExtend 16

/-- `zext_16` of a register's byte. -/
def byteToWord (b : Byte) : Word := b.zeroExtend 16

/-- The skip: 2 more bytes when the condition holds (41_control_flow.md R104). -/
def State.skipIf (c : Bool) (s : State) : State := if c then s.setPc (s.pc + 2) else s

/-- The register bnnn adds: `v[0]` when `Q` is 1, else the one the top nibble of `nnn` names (R108). -/
def State.jumpOffsetReg (nnn : Addr12) (s : State) : Reg := if s.q then 0 else (nnn.extractLsb' 8 4).toFin

/-- The value 8xy6 and 8xyE shift: `v[y]` when `Q == SHIFT_COPY_POLARITY`, else `v[x]` (42_alu.md R120, R121; log 12). -/
def State.shiftSource (x y : Reg) (s : State) : Byte :=
  if s.q == s.params.shiftCopyPolarity then s.reg y else s.reg x

/-- The exact sum of fx1E (43_index_and_memory.md R132). -/
def State.indexSum (x : Reg) (s : State) : Nat := s.i.toNat + (s.reg x).toNat

/-- The address of the glyph of a byte's low nibble (R133). -/
def glyphAddress (b : Byte) : Word := byteToWord (b &&& 0x0F) * 5 + 0x0050

/-- The three decimal digits of a byte, hundreds first (R134). -/
def decimalDigits (b : Byte) : List Byte := [b / 100, b / 10 % 10, b % 10]

/-- `v[0]` to `v[x]`, the bytes fx55 stores (R135). -/
def State.regsUpTo (x : Reg) (s : State) : List Byte := s.v.toList.take (x.val + 1)

/-- The register file after fx65: `v[k]` for `k ≤ x` from memory at `i + k`, with the `i` of before (R136). -/
def State.loadedRegs (x : Reg) (s : State) : Vector Byte 16 :=
  Vector.ofFn fun k => if k ≤ x then s.mem.read (s.i.toNat + k.val) else s.reg k

/-- The quirk post-increment of fx55 and fx65: `i + x + 1` when `Q` is 1 (R135, R136). -/
def State.postIncrement (x : Reg) (s : State) : State :=
  if s.q then s.setI (s.i + BitVec.ofNat 16 (x.val + 1)) else s

/-- The released keys, lowest first (46_keys_and_timers.md R166). -/
def releasedKeys (released : BitVec 16) : List Reg := (List.finRange 16).filter fun k => released.getLsbD k.val

/-- The key fx0A stores: any released one, none when no key is released (R166; log 22). -/
def State.waitedKey (s : State) : Option Reg :=
  match releasedKeys s.released with
  | [] => none
  | [k] => some k
  | k :: ks => some ((k :: ks).getD (Config.freeKeyChoice s.draws % (k :: ks).length) k)

end Sys2Proof.Machine
end

