-- ==== Sys2Proof/Machine/Flags.lean ====
section
/-! DEFINITION. The flag register `v[15]` and every flag the instructions compute (10_state.md R23, 42_alu.md R113). -/

namespace Sys2Proof.Machine

/-- `vF`, the flag register (R23). -/
def flagReg : Reg := 15

/-- A flag as the byte written to `v[15]`: 1 or 0 (R23). -/
def flagByte (c : Bool) : Byte := if c then 1 else 0

/-- Carry out of the 8-bit add (R117). -/
def carryOut (a b : Byte) : Bool := decide (255 < a.toNat + b.toNat)

/-- No borrow in `a - b` (R118). -/
def noBorrow (a b : Byte) : Bool := decide (b.toNat ≤ a.toNat)

/-- The bit a right shift by one shifts out (R120). -/
def bitOutRight (t : Byte) : Bool := t.getLsbD 0

/-- The bit a left shift by one shifts out (R121). -/
def bitOutLeft (t : Byte) : Bool := t.getLsbD 7

/-- Write `v[15]` as a flag. -/
def State.setFlag (c : Bool) (s : State) : State := s.setReg flagReg (flagByte c)

/-- The result to `v[x]`, then the flag to `v[15]`, last (R113). -/
def State.setResultAndFlag (x : Reg) (r : Byte) (c : Bool) (s : State) : State := (s.setReg x r).setFlag c

end Sys2Proof.Machine
end

