-- ==== Sys2Proof/Machine/ControlFlow.lean ====
section
/-! DEFINITION. NOP (40_step_and_dispatch.md) and control transfer (41_control_flow.md). The state a meaning gets is the one
after the pre-increment: `pc` is the address of the next sequential instruction (R92, R100; log 31). -/

namespace Sys2Proof.Machine

/-- NOP: nothing beyond the pre-increment (R95). -/
def execNop (_ : Word) (s : State) : Host.Outcome State Fault Refusal := .next s

/-- 00EE: pop the stack into `pc` (R101). -/
def execRet (s : State) : Host.Outcome State Fault Refusal :=
  match s.stack with
  | [] => raise .emptyStackReturn s
  | e :: rest => .next ((s.setPc e).setStack rest)

/-- 1nnn (R102). -/
def execJp (nnn : Addr12) (s : State) : Host.Outcome State Fault Refusal := .next (s.setPc (literalAddr nnn))

/-- 2nnn: push the incremented `pc`, then jump (R103). -/
def execCall (nnn : Addr12) (s : State) : Host.Outcome State Fault Refusal :=
  if s.params.stackDepth = some s.depth then raise .stackOverflow s
  else .next ((s.push s.pc).setPc (literalAddr nnn))

/-- 3xnn (R104). -/
def execSeImm (x : Reg) (nn : Byte) (s : State) : Host.Outcome State Fault Refusal :=
  .next (s.skipIf (s.reg x == nn))

/-- 4xnn (R105). -/
def execSneImm (x : Reg) (nn : Byte) (s : State) : Host.Outcome State Fault Refusal :=
  .next (s.skipIf (s.reg x != nn))

/-- 5xy0 (R106). -/
def execSeReg (x y : Reg) (s : State) : Host.Outcome State Fault Refusal :=
  .next (s.skipIf (s.reg x == s.reg y))

/-- 9xy0 (R107). -/
def execSneReg (x y : Reg) (s : State) : Host.Outcome State Fault Refusal :=
  .next (s.skipIf (s.reg x != s.reg y))

/-- bnnn: the sum is not masked (R108; log 17). -/
def execJpV0 (nnn : Addr12) (s : State) : Host.Outcome State Fault Refusal :=
  .next (s.setPc (literalAddr nnn + byteToWord (s.reg (s.jumpOffsetReg nnn))))

end Sys2Proof.Machine
end

