-- ==== Sys2Proof/Machine/Display.lean ====
section
/-! DEFINITION. The framebuffer and the sprite rasterizer (44_display.md). -/

namespace Sys2Proof.Machine

/-- Whether a cell is on (R140). -/
def Screen.isOn (f : Screen) (c : Nat) : Bool := f.contains c

/-- XOR of a cell with 1, keeping the strictly rising form. -/
def Screen.toggle (f : Screen) (c : Nat) : Screen :=
  match f with
  | [] => [c]
  | d :: rest => if c < d then c :: d :: rest else if c = d then rest else d :: Screen.toggle rest c

/-- The framebuffer's canonical form above a bound: strictly rising and inside the `size` cells (log 6). -/
def Screen.wfFrom (size lo : Nat) : Screen → Bool
  | [] => true
  | c :: rest => lo ≤ c && c < size && Screen.wfFrom size (c + 1) rest

/-- The framebuffer's canonical form for a screen of `WIDTH * HEIGHT` cells. -/
def Screen.wf (p : Params) (f : Screen) : Bool := Screen.wfFrom (p.width * p.height) 0 f

/-- The number of the cell at column `cx`, row `cy` (R140; log 6). -/
def cellAt (p : Params) (cx cy : Nat) : Nat := cy * p.width + cx

/-- The rasterizer's two outputs: the framebuffer and whether a set bit has met a cell that was on (R145). -/
structure Canvas where
  fb : Screen
  hit : Bool
deriving DecidableEq, Repr

/-- One set sprite bit on one cell (R142). -/
def Canvas.plot (cv : Canvas) (c : Nat) : Canvas := ⟨cv.fb.toggle c, cv.hit || cv.fb.isOn c⟩

/-- The columns of one sprite row, left to right, until the right edge; bit 7 is the leftmost (R142; log 8). -/
def drawColumns (p : Params) (x0 cy : Nat) (b : Byte) (cv : Canvas) : List Nat → Canvas
  | [] => cv
  | c :: cs =>
    if p.width ≤ x0 + c then cv
    else drawColumns p x0 cy b (if b.getLsbD (7 - c) then cv.plot (cellAt p (x0 + c) cy) else cv) cs

/-- The sprite's rows from row `cy` down, one byte each (R142). -/
def drawRows (p : Params) (x0 cy : Nat) (cv : Canvas) : List Byte → Canvas
  | [] => cv
  | b :: bs => drawRows p x0 (cy + 1) (drawColumns p x0 cy b cv (List.range 8)) bs

/-- The start column and row, wrapped once, from the registers of before the draw (R142; log 20). -/
def State.drawX (x : Reg) (s : State) : Nat := (s.reg x).toNat % s.params.width
def State.drawY (y : Reg) (s : State) : Nat := (s.reg y).toNat % s.params.height

/-- The rows actually drawn, and read: those above the bottom edge (R143; log 20). -/
def State.drawnRows (y : Reg) (n : RowCount) (s : State) : Nat := min n.val (s.params.height - s.drawY y)

/-- The bytes of the drawn rows (R142). -/
def State.spriteBytes (y : Reg) (n : RowCount) (s : State) : List Byte :=
  (List.range (s.drawnRows y n)).map fun r => s.mem.read (s.i.toNat + r)

/-- The draw from the current framebuffer with no hit yet (R142). -/
def State.drawSprite (x y : Reg) (n : RowCount) (s : State) : Canvas :=
  drawRows s.params (s.drawX x) (s.drawY y) ⟨s.fb, false⟩ (s.spriteBytes y n)

/-- 00E0: every cell off; not reported by `CHANGED` (R141). -/
def execCls (s : State) : Host.Outcome State Fault Refusal := .next (s.setFb [])

/-- dxyn: XOR the sprite, `v[15]` the collision, `CHANGED` 1 (R142). -/
def execDrw (x y : Reg) (n : RowCount) (s : State) : Host.Outcome State Fault Refusal :=
  if accessInRange s.i.toNat (s.drawnRows y n) then
    .next (((s.setFb (s.drawSprite x y n).fb).setFlag (s.drawSprite x y n).hit).setChanged (some true))
  else raise (accessFault s.i.toNat .read) s

end Sys2Proof.Machine
end

