-- ==== Sys2Proof/Machine/IndexMemory.lean ====
section
/-! DEFINITION. The index register and the data loads and stores (43_index_and_memory.md). Each range check covers the
whole access before any of it takes effect (20_memory.md R56). -/

namespace Sys2Proof.Machine

/-- annn (R131). -/
def execLdI (nnn : Addr12) (s : State) : Host.Outcome State Fault Refusal := .next (s.setI (literalAddr nnn))

/-- fx1E: a sum that does not fit 16 bits is a fault (R132; log 16). -/
def execAddI (x : Reg) (s : State) : Host.Outcome State Fault Refusal :=
  if 0xFFFF < s.indexSum x then raise (.indexOverflow (s.indexSum x)) s
  else .next (s.setI (BitVec.ofNat 16 (s.indexSum x)))

/-- fx29 (R133). -/
def execLdF (x : Reg) (s : State) : Host.Outcome State Fault Refusal := .next (s.setI (glyphAddress (s.reg x)))

/-- fx33 (R134). -/
def execLdB (x : Reg) (s : State) : Host.Outcome State Fault Refusal :=
  if accessInRange s.i.toNat 3 then .next (s.storeBytes s.i.toNat (decimalDigits (s.reg x)))
  else raise (accessFault s.i.toNat .write) s

/-- fx55 (R135). -/
def execStoreRegs (x : Reg) (s : State) : Host.Outcome State Fault Refusal :=
  if accessInRange s.i.toNat (x.val + 1) then .next ((s.storeBytes s.i.toNat (s.regsUpTo x)).postIncrement x)
  else raise (accessFault s.i.toNat .write) s

/-- fx65 (R136). -/
def execLoadRegs (x : Reg) (s : State) : Host.Outcome State Fault Refusal :=
  if accessInRange s.i.toNat (x.val + 1) then .next ((s.setV (s.loadedRegs x)).postIncrement x)
  else raise (accessFault s.i.toNat .read) s

end Sys2Proof.Machine
end

