-- ==== Sys2Proof/Machine/KeysTimers.lean ====
section
/-! DEFINITION. The instructions that read the key arrays and that read or write the timers (46_keys_and_timers.md). -/

namespace Sys2Proof.Machine

/-- ex9E: the key is chosen by the whole byte, and a byte above 15 is a fault (R161; log 21). -/
def execSkp (x : Reg) (s : State) : Host.Outcome State Fault Refusal :=
  if 15 < (s.reg x).toNat then raise (.keyIndexFault (s.reg x)) s
  else .next (s.skipIf (s.pressed.getLsbD (s.reg x).toNat))

/-- exA1 (R162). -/
def execSknp (x : Reg) (s : State) : Host.Outcome State Fault Refusal :=
  if 15 < (s.reg x).toNat then raise (.keyIndexFault (s.reg x)) s
  else .next (s.skipIf (!s.pressed.getLsbD (s.reg x).toNat))

/-- fx07 (R163). -/
def execLdVxDt (x : Reg) (s : State) : Host.Outcome State Fault Refusal := .next (s.setReg x s.dt)

/-- fx15 (R164). -/
def execLdDtVx (x : Reg) (s : State) : Host.Outcome State Fault Refusal := .next (s.setDt (s.reg x))

/-- fx18 (R165). -/
def execLdStVx (x : Reg) (s : State) : Host.Outcome State Fault Refusal := .next (s.setSt (s.reg x))

/-- fx0A: with no key released, back to this instruction's own address; else a released key's index (R166, R167). -/
def execLdVxK (x : Reg) (s : State) : Host.Outcome State Fault Refusal :=
  match s.waitedKey with
  | none => .next (s.setPc (s.pc - 2))
  | some k => .next (s.setReg x (BitVec.ofNat 8 k.val))

end Sys2Proof.Machine
end

