-- ==== Sys2Proof/Machine/Random.lean ====
section
/-! DEFINITION. The pseudo-random byte generator and cxnn (45_random.md). -/

namespace Sys2Proof.Machine

/-- The first two of the three shift-and-xor lines of xorshift64 (R151). -/
def xorshiftFirstTwo (r : RngWord) : RngWord :=
  let a := r ^^^ (r <<< 13)
  a ^^^ (a >>> 7)

/-- The generator's next state, shift triple (13, 7, 17), bits past bit 63 discarded (R151; log 36). -/
def xorshift (r : RngWord) : RngWord := xorshiftFirstTwo r ^^^ (xorshiftFirstTwo r <<< 17)

/-- The byte returned: the low byte of the updated state (R151). -/
def randomByte (r : RngWord) : Byte := (xorshift r).extractLsb' 0 8

/-- cxnn: one advance of the generator, its byte under the mask (R153). -/
def execRnd (x : Reg) (nn : Byte) (s : State) : Host.Outcome State Fault Refusal :=
  .next ((s.setRng (xorshift s.rng)).setReg x (randomByte s.rng &&& nn))

end Sys2Proof.Machine
end

