-- ==== Sys2Proof/Machine/StepInstr.lean ====
section
/-! DEFINITION. The STEP event (40_step_and_dispatch.md R90), and the placing of an instruction where it is fetched. -/

namespace Sys2Proof.Machine

/-- `STEP(pressed, released)` on a machine without a latched fault (R90): fetch, pre-increment, decode, execute. -/
def stepInstr (pressed released : BitVec 16) (s : State) : Host.Outcome State Fault Refusal :=
  match s.fetch with
  | .error f => .next ((s.sampleKeys pressed released).latch f)
  | .ok w => exec (decodeWord w) (s.enterInstr pressed released)

/-- The instruction word `w` stored at `pc`, high byte first, and a STEP with no key pressed and none released as the
host's next event (log 28). -/
def State.placeInstr (w : Word) (s : State) : State :=
  { s with
    mem := s.mem.writeBytes s.pc.toNat [highByte w, lowByte w]
    events := .step 0 0 :: s.events }

end Sys2Proof.Machine
end

