-- ==== Sys2Proof/Machine/Step.lean ====
section
/-! DEFINITION. One step: the host's next event applied to the machine (00_scope.md R7, 40_step_and_dispatch.md R90). -/

namespace Sys2Proof.Machine

/-- One event. A machine whose latch is set accepts none: it answers the latched fault (60_exceptions.md R177; log 13). -/
def step (s : State) : Host.Outcome State Fault Refusal :=
  match s.fault with
  | some f => .fault f
  | none =>
    match s.nextEvent with
    | .tick => .next s.takeEvent.tick
    | .step pressed released => stepInstr pressed released s.takeEvent

/-- `s` with the instruction of `tableWord nbits w` where the next step fetches and runs it (log 28). -/
def State.withFetchWord (s : State) (nbits w : Nat) : State := s.placeInstr (tableWord nbits w)

end Sys2Proof.Machine
end

