-- ==== Sys2Proof/Safety.lean ====
section
/-! DEFINITION. The terms the statements use: the parts of a state and what leaves them alone, taking a fault, the
invariant of every reachable state, the end of a run. -/

namespace Sys2Proof

/-- The instructions that write `v[15]` as a flag (10_state.md R23). -/
def Instr.writesFlag : Instr → Bool
  | .addReg _ _ | .subReg _ _ | .subnReg _ _ | .shr _ _ | .shl _ _ | .drw _ _ _ => true
  | _ => false

/-- The register an instruction writes by naming it through `x` (10_state.md R21); fx65 writes `v[0]` to `v[x]`. -/
def Instr.namesDest : Instr → Reg → Bool
  | .ldImm x _, k | .addImm x _, k | .ldReg x _, k | .orReg x _, k | .andReg x _, k | .xorReg x _, k => k == x
  | .addReg x _, k | .subReg x _, k | .subnReg x _, k | .shr x _, k | .shl x _, k => k == x
  | .rnd x _, k | .ldVxDt x, k | .ldVxK x, k => k == x
  | .loadRegs x, k => decide (k ≤ x)
  | _, _ => false

/-- The instructions that can leave `pc` elsewhere than at the next sequential instruction (10_state.md R22). -/
def Instr.transfersControl : Instr → Bool
  | .ret | .jp _ | .call _ | .jpV0 _ | .seImm _ _ | .sneImm _ _ | .seReg _ _ | .sneReg _ _ | .skp _ | .sknp _ => true
  | .ldVxK _ => true
  | _ => false

/-- The instructions that skip (41_control_flow.md R104 to R107, 46_keys_and_timers.md R161, R162). -/
def Instr.skips : Instr → Bool
  | .seImm _ _ | .sneImm _ _ | .seReg _ _ | .sneReg _ _ | .skp _ | .sknp _ => true
  | _ => false

/-- The instructions that have a fault of their own (60_exceptions.md R170). -/
def Instr.canFault : Instr → Bool
  | .ret | .call _ | .skp _ | .sknp _ | .addI _ | .ldB _ | .storeRegs _ | .loadRegs _ | .drw _ _ _ => true
  | _ => false

/-- The five patterns that consult the quirk flag (10_state.md R33). -/
def Instr.consultsQuirk : Instr → Bool
  | .shr _ _ | .shl _ _ | .jpV0 _ | .storeRegs _ | .loadRegs _ => true
  | _ => false

end Sys2Proof

namespace Sys2Proof.Machine

/-- Everything State holds, in parts: each byte, each register and each cell is one. -/
inductive Part
  | byte (a : Nat)
  | reg (k : Reg)
  | pc
  | index
  | stack
  | delayTimer
  | soundTimer
  | cell (c : Nat)
  | rng
  | quirk
  | latch
  | params
  | changed
  /-- The key arrays of the STEP under way. -/
  | keys
  /-- The host's events and the count of those taken. -/
  | host
deriving DecidableEq, Repr

/-- `t` holds in this part what `s` holds in it. A byte and a cell are compared by reading them. -/
def Part.same (s t : State) : Part → Prop
  | .byte a => t.mem.read a = s.mem.read a
  | .reg k => t.reg k = s.reg k
  | .pc => t.pc = s.pc
  | .index => t.i = s.i
  | .stack => t.stack = s.stack
  | .delayTimer => t.dt = s.dt
  | .soundTimer => t.st = s.st
  | .cell c => t.fb.isOn c = s.fb.isOn c
  | .rng => t.rng = s.rng
  | .quirk => t.q = s.q
  | .latch => t.fault = s.fault
  | .params => t.params = s.params
  | .changed => t.changed = s.changed
  | .keys => t.pressed = s.pressed ∧ t.released = s.released
  | .host => t.events = s.events ∧ t.draws = s.draws

/-- From `s` to `t` nothing changes outside the parts `written`. -/
def KeepsAllBut (written : Part → Prop) (s t : State) : Prop := ∀ p, ¬ written p → p.same s t

/-- The parts of a list, as a set. -/
def parts (ps : List Part) : Part → Prop := fun p => p ∈ ps

/-- The `count` bytes from `base`, as a set of parts. -/
def bytesFrom (base count : Nat) : Part → Prop := fun p => ∃ k, k < count ∧ p = .byte (base + k)

/-- The instruction takes the fault `f`: a next state with the cause in the latch, no `CHANGED` value, `pc` back at the
instruction's own address, and everything else as it was (60_exceptions.md R176). -/
def TakesFault (i : Instr) (s : State) (f : Fault) : Prop :=
  ∃ t, exec i s = .next t ∧ t.fault = some f ∧ t.pc = s.pc - 2 ∧ t.changed = none ∧
    KeepsAllBut (parts [.latch, .pc, .changed]) s t

/-- The invariant of 10_state.md R40 with the canonical forms of memory and framebuffer: `pc` at most 0x10FE, every stack
entry at most 0x1000 and, where an odd `pc` cannot execute, even, and `depth` at most `STACK_DEPTH`. -/
structure State.Inv (s : State) : Prop where
  memory : s.mem.wf = true
  screen : s.fb.wf s.params = true
  pcBound : s.pc.toNat ≤ 0x10FE
  stackBound : ∀ e ∈ s.stack, e.toNat ≤ 0x1000
  stackEven : s.params.oddPcPolicy = .fault → ∀ e ∈ s.stack, e.toNat % 2 = 0
  depthBound : ∀ d, s.params.stackDepth = some d → s.depth ≤ d

/-- The end of a run: no fault, and an even `pc` at a jump to itself (70_reset_and_hazards.md R196). -/
structure State.EndOfRun (s : State) : Prop where
  noFault : s.fault = none
  even : s.pc.getLsbD 0 = false
  inside : s.pc.toNat ≤ 0x0FFE
  selfJump : s.mem.wordAt s.pc.toNat = 0x1000 ||| s.pc

/-- Cell (`cx`, `cy`) is inside the screen and under a set, drawn bit of the sprite dxyn draws in `s`: the start is wrapped
once, rows and columns are clipped at the edges, bit 7 is leftmost (44_display.md R142; log 8, log 20). -/
def SpriteCovers (x y : Reg) (n : RowCount) (s : State) (cx cy : Nat) : Bool :=
  let x0 := (s.reg x).toNat % s.params.width
  let y0 := (s.reg y).toNat % s.params.height
  decide (cx < s.params.width ∧ cy < s.params.height ∧ x0 ≤ cx ∧ cx < x0 + 8 ∧ y0 ≤ cy ∧ cy < y0 + n.val) &&
    (s.mem.read (s.i.toNat + (cy - y0))).getLsbD (7 - (cx - x0))

/-- Every drawn row of the sprite lies in memory: a row is drawn when it is below row `n` and above the bottom edge
(44_display.md R143). -/
def SpriteInMemory (y : Reg) (n : RowCount) (s : State) : Prop :=
  ∀ r, r < n.val → (s.reg y).toNat % s.params.height + r < s.params.height → s.i.toNat + r < memSize

/-- A STEP can fetch: no latched fault, a parity the policy admits, both bytes inside memory (R90, R91). -/
structure State.CanFetch (s : State) : Prop where
  noFault : s.fault = none
  parity : s.oddPcFaults = false
  inside : s.pc.toNat ≤ 0x0FFE

end Sys2Proof.Machine
end

