-- ==== Sys2Proof/Certificates/Slice0/Obligations.lean ====
section
/-! DEFINITION. The statements for the provers. `exec i s` runs `i` in the state after the pre-increment: there `s.pc` is
the address of the next sequential instruction (40_step_and_dispatch.md R92; log 31). The `CHANGED` output enters an
instruction as 0 and stays so where the statement's frame keeps it (R96). -/

open Sys2Proof Sys2Proof.Machine

/-! ## Encoding (30_encoding.md) -/

/-- Decoding an encoded well-formed instruction gives it back, from the word and from its bytes in memory order. That
the no-op carries its word is the model's choice (log 29). -/
def Obligations.DecodeOfEncode : Prop :=
  ∀ (i : Instr) (rest : List Byte), i.wf = true →
    decodeWord (encode i) = i ∧ decode (encodeBytes i ++ rest) = .ok (i, rest)

/-- Every word decodes to a well-formed instruction whose encoding is that word: no bit is dropped. The no-op carries
its word: the model's choice (log 29). -/
def Obligations.EncodeOfDecode : Prop :=
  ∀ w : Word, (decodeWord w).wf = true ∧ encode (decodeWord w) = w

/-- R74: 34 pairwise disjoint patterns; a word is decoded by the pattern it matches, whichever order they are tried
in. That every fixed digit is compared is the spec's decision D17 (log 23). -/
def Obligations.PatternsAreDisjoint : Prop :=
  opcodeTable.length = 34 ∧
  opcodeTable.Pairwise (fun r r' => ∀ w : Word, ¬ (r.accepts w = true ∧ r'.accepts w = true)) ∧
  ∀ r ∈ opcodeTable, ∀ w : Word, w &&& r.mask = r.pattern → decodeWord w = r.build w

/-- R77: the words that match no pattern are those of the family table, and each is the no-op. Literal matching of the
fixed digits is the spec's decision D17 (log 23). -/
def Obligations.UnmatchedWordsAreTheFamilyTable : Prop :=
  ∀ w : Word, ((∀ r ∈ opcodeTable, w &&& r.mask ≠ r.pattern) ↔ unmatchedWord w = true) ∧
    (unmatchedWord w = true ↔ decodeWord w = .nop w)

/-- Words written out bit by bit from R76 and R82, one or more of each family, decode to the instruction they stand
for. -/
def Obligations.WordsWrittenOut : Prop :=
  decodeWord 0b0000000011100000 = .cls ∧ decodeWord 0b0000000011101110 = .ret ∧
  decodeWord 0b0001001010100100 = .jp 0x2A4 ∧ decodeWord 0b0101000100100000 = .seReg 1 2 ∧
  decodeWord 0b0110001110011100 = .ldImm 3 0x9C ∧ decodeWord 0b1000000100100100 = .addReg 1 2 ∧
  decodeWord 0b1010001011110000 = .ldI 0x2F0 ∧ decodeWord 0b1100001100001111 = .rnd 3 0x0F ∧
  decodeWord 0b1101000000010101 = .drw 0 1 5 ∧ decodeWord 0b1110010010011110 = .skp 4 ∧
  decodeWord 0b1111010100001010 = .ldVxK 5 ∧ decodeWord 0b1111001001010101 = .storeRegs 2

/-! ## The step and its events (40_step_and_dispatch.md, 46_keys_and_timers.md, 60_exceptions.md) -/

/-- A STEP runs the instruction the two bytes at `pc` decode to, high byte first, in the state with the event taken
from the queue, the keys sampled, `pc` incremented by 2 and `CHANGED` at 0 (R90 to R93). The queue, its counter and
the key fields are the model's (log 1, 2, 3). -/
def Obligations.StepRunsDecodedInstruction : Prop :=
  ∀ (s : State) (pressed released : BitVec 16) (i : Instr),
    s.CanFetch → s.nextEvent = .step pressed released →
    decode [s.mem.read s.pc.toNat, s.mem.read (s.pc.toNat + 1)] = .ok (i, []) →
    step s = exec i { s with pc := s.pc + 2, pressed := pressed, released := released, changed := some false,
                             events := s.events.tail, draws := s.draws + 1 }

/-- Where a fetch faults, and that the parity is checked first: the spec's decisions D6, D5 and D19 (log 15, 14, 25).
The machine of before the STEP stays, with the fault in the latch: decision D18 (log 13). -/
def Obligations.FetchFaults : Prop :=
  ∀ (s : State) (pressed released : BitVec 16),
    s.fault = none → s.nextEvent = .step pressed released →
    (s.pc.toNat % 2 = 1 ∧ s.params.oddPcPolicy = .fault →
      step s = .next { s with fault := some (.oddPc s.pc), changed := none, pressed := pressed, released := released,
                              events := s.events.tail, draws := s.draws + 1 }) ∧
    (¬ (s.pc.toNat % 2 = 1 ∧ s.params.oddPcPolicy = .fault) ∧ 0x0FFE < s.pc.toNat →
      step s = .next { s with fault := some (.memoryFault (max s.pc.toNat 4096) .fetch), changed := none,
                              pressed := pressed, released := released,
                              events := s.events.tail, draws := s.draws + 1 })

/-- `TICK` takes each timer down by 1, never below 0, and touches nothing else (R168); a faulted machine refuses it,
and that the refusal is the answer `.fault` of the latched cause is the model's choice with the spec's D18 (log 13).
-/
def Obligations.TickDecrementsTimers : Prop :=
  ∀ s : State, s.nextEvent = .tick →
    (s.fault = none → ∃ t, step s = .next t ∧ t.dt.toNat = s.dt.toNat - 1 ∧ t.st.toNat = s.st.toNat - 1 ∧
      KeepsAllBut (parts [.delayTimer, .soundTimer, .host]) s t) ∧
    (∀ f, s.fault = some f → step s = .fault f)

/-- A machine whose latch is set accepts no event; that the rest of it is frozen is the spec's decision D18 (log 13).
-/
def Obligations.FaultedMachineAcceptsNoEvent : Prop :=
  ∀ (s : State) (f : Fault), s.fault = some f → step s = .fault f

/-- A step that faults changes nothing but the latch, the `CHANGED` output and the host's inputs: faults are precise,
`pc` stays at the faulting instruction (the spec's decision D18, log 13). -/
def Obligations.FaultingStepIsPrecise : Prop :=
  ∀ (s t : State) (f : Fault), s.fault = none → step s = .next t → t.fault = some f →
    KeepsAllBut (parts [.latch, .changed, .keys, .host]) s t

/-- No instruction stops the machine: in every state each answers a next state. That this holds of an instruction that
faults too, its fault being latched in that next state, is the model's choice with the spec's D18 (log 13). -/
def Obligations.EveryInstructionAnswersNext : Prop :=
  ∀ (i : Instr) (s : State), ∃ t, exec i s = .next t

/-- No instruction but 00EE, 2nnn, dxyn, ex9E, exA1, fx1E, fx33, fx55 and fx65 latches a fault (R170 to R180; the list
contains the spec's decisions D5, D7, D9 and D13, log 14, 16, 18, 21; the latch is D18, log 13). -/
def Obligations.OnlyListedInstructionsFault : Prop :=
  ∀ (i : Instr) (s t : State), i.canFault = false → exec i s = .next t → t.fault = s.fault

/-- `CHANGED` is 1 exactly when the executed word is a dxyn, 00E0 included among the zeros; a step that faults returns
none (the spec's decision D25, log 24; that it answers a next state is D18, log 13). -/
def Obligations.ChangedExactlyForDraw : Prop :=
  ∀ (s t : State) (pressed released : BitVec 16),
    s.fault = none → s.nextEvent = .step pressed released → step s = .next t →
    (t.fault = none → t.changed = some (s.mem.wordAt s.pc.toNat &&& 0xF000 == 0xD000)) ∧
    (t.fault ≠ none → t.changed = none)

/-- R92 at the step: an instruction that does not transfer control leaves `pc` 2 further, a skip 2 or 4 further. That
`pc` is not masked is the spec's decision D8 (log 17). -/
def Obligations.StepAdvancesByTwoOrSkips : Prop :=
  ∀ (s t : State) (pressed released : BitVec 16),
    s.CanFetch → s.nextEvent = .step pressed released → step s = .next t → t.fault = none →
    ((decodeWord (s.mem.wordAt s.pc.toNat)).transfersControl = false → t.pc = s.pc + 2) ∧
    ((decodeWord (s.mem.wordAt s.pc.toNat)).skips = true → t.pc = s.pc + 2 ∨ t.pc = s.pc + 4)

/-- A STEP never decrements a timer: it leaves each as it is, but for fx15 and fx18, which write `v[x]` to it. -/
def Obligations.OnlyTheHostDecrementsTimers : Prop :=
  ∀ (i : Instr) (s t : State), exec i s = .next t →
    (t.dt = s.dt ∨ ∃ x, i = .ldDtVx x ∧ t.dt = s.reg x) ∧
    (t.st = s.st ∨ ∃ x, i = .ldStVx x ∧ t.st = s.reg x)

/-- The core keeps no copy of the key arrays from one step to the next: what a STEP answers does not depend on the
arrays of an earlier one, nor on an earlier `CHANGED` value. The fields are the model's (log 3, 4). -/
def Obligations.KeysAreSampledAfresh : Prop :=
  ∀ (s : State) (p r pressed released : BitVec 16) (c : Option Bool), s.nextEvent = .step p r →
    step { s with pressed := pressed, released := released, changed := c } = step s

/-- R160: only ex9E and exA1 read `pressed`, and only fx0A reads `released`. -/
def Obligations.OnlyKeyInstructionsReadKeys : Prop :=
  ∀ (i : Instr) (s t : State) (pressed released : BitVec 16), exec i s = .next t →
    ((∀ x, i ≠ .skp x) → (∀ x, i ≠ .sknp x) →
      exec i { s with pressed := pressed } = .next { t with pressed := pressed }) ∧
    ((∀ x, i ≠ .ldVxK x) → exec i { s with released := released } = .next { t with released := released })

/-- Only the five quirk patterns 8xy6, 8xyE, bnnn, fx55 and fx65 consult the quirk flag, and no event changes it or a
parameter of the run. The parameters stand in State by the model's choice (log 5). -/
def Obligations.QuirkFlagIsConstant : Prop :=
  (∀ (i : Instr) (s t : State) (q : Bool), i.consultsQuirk = false → exec i s = .next t →
    exec i { s with q := q } = .next { t with q := q }) ∧
  ∀ s t : State, step s = .next t → t.q = s.q ∧ t.params = s.params

/-! ## Control transfer (40_step_and_dispatch.md R95, 41_control_flow.md) -/

/-- Every unmatched word, 0x0000, 0x5121 and 0x00E1 among them, is the NOP, whose step changes nothing beyond the
pre-increment and reports no change (R95). Which words are unmatched rests on literal matching of the fixed digits,
the spec's decision D17 (log 23). -/
def Obligations.NopOnlyAdvances : Prop :=
  decodeWord 0x0000 = .nop 0x0000 ∧ decodeWord 0x5121 = .nop 0x5121 ∧ decodeWord 0x00E1 = .nop 0x00E1 ∧
  (∀ (w : Word) (s : State), exec (.nop w) s = .next s) ∧
  ∀ (s : State) (pressed released : BitVec 16), s.CanFetch → s.nextEvent = .step pressed released →
    unmatchedWord (s.mem.wordAt s.pc.toNat) = true →
    ∃ t, step s = .next t ∧ t.pc = s.pc + 2 ∧ t.changed = some false ∧
      KeepsAllBut (parts [.pc, .changed, .keys, .host]) s t

/-- The return pops the stack into `pc`; with an empty stack it raises `EmptyStackReturn` (R101). That raising is a
next state with the cause in the latch is the spec's decision D18 with the model's choice (log 13). -/
def Obligations.ReturnPopsTheStack : Prop :=
  encode .ret = 0x00EE ∧
  (∀ (s : State) (e : Word) (rest : List Word), s.stack = e :: rest →
    ∃ t, exec .ret s = .next t ∧ t.pc = e ∧ t.stack = rest ∧ KeepsAllBut (parts [.pc, .stack]) s t) ∧
  ∀ s : State, s.stack = [] → ∃ t, exec .ret s = .next t ∧ t.fault = some .emptyStackReturn

/-- R102: the jump. -/
def Obligations.JumpSetsPc : Prop :=
  ∀ (nnn : Addr12) (s : State), encode (.jp nnn) = 0x1000 ||| nnn.zeroExtend 16 ∧
    ∃ t, exec (.jp nnn) s = .next t ∧ t.pc.toNat = nnn.toNat ∧ KeepsAllBut (parts [.pc]) s t

/-- The call pushes the incremented `pc` and jumps, unless the stack holds `STACK_DEPTH` entries; the bound is the
spec's parameter (decision D9, log 18). -/
def Obligations.CallPushesReturnAddress : Prop :=
  ∀ (nnn : Addr12) (s : State), s.params.stackDepth ≠ some s.depth →
    ∃ t, exec (.call nnn) s = .next t ∧ t.stack = s.pc :: s.stack ∧ t.pc.toNat = nnn.toNat ∧
      KeepsAllBut (parts [.pc, .stack]) s t

/-- A return on the stack a call left goes to the instruction after the call and restores the stack. The bound is the
spec's parameter (decision D9, log 18). -/
def Obligations.CallReturnRoundTrip : Prop :=
  ∀ (nnn : Addr12) (s t u : State), s.params.stackDepth ≠ some s.depth → exec (.call nnn) s = .next t →
    u.stack = t.stack → ∃ w, exec .ret u = .next w ∧ w.pc = s.pc ∧ w.stack = s.stack

/-- R104, R105: the skips that compare a register with a literal. -/
def Obligations.LiteralSkips : Prop :=
  ∀ (x : Reg) (nn : Byte) (s : State),
    (encode (.seImm x nn) = 0x3000 ||| (BitVec.ofNat 16 x.val <<< 8) ||| nn.zeroExtend 16 ∧
      ∃ t, exec (.seImm x nn) s = .next t ∧ t.pc = (if s.reg x = nn then s.pc + 2 else s.pc) ∧
        KeepsAllBut (parts [.pc]) s t) ∧
    (encode (.sneImm x nn) = 0x4000 ||| (BitVec.ofNat 16 x.val <<< 8) ||| nn.zeroExtend 16 ∧
      ∃ t, exec (.sneImm x nn) s = .next t ∧ t.pc = (if s.reg x = nn then s.pc else s.pc + 2) ∧
        KeepsAllBut (parts [.pc]) s t)

/-- R106, R107: the skips that compare two registers. -/
def Obligations.RegisterSkips : Prop :=
  ∀ (x y : Reg) (s : State),
    (encode (.seReg x y) = 0x5000 ||| (BitVec.ofNat 16 x.val <<< 8) ||| (BitVec.ofNat 16 y.val <<< 4) ∧
      ∃ t, exec (.seReg x y) s = .next t ∧ t.pc = (if s.reg x = s.reg y then s.pc + 2 else s.pc) ∧
        KeepsAllBut (parts [.pc]) s t) ∧
    (encode (.sneReg x y) = 0x9000 ||| (BitVec.ofNat 16 x.val <<< 8) ||| (BitVec.ofNat 16 y.val <<< 4) ∧
      ∃ t, exec (.sneReg x y) s = .next t ∧ t.pc = (if s.reg x = s.reg y then s.pc else s.pc + 2) ∧
        KeepsAllBut (parts [.pc]) s t)

/-- bnnn jumps to the exact, unmasked sum of `nnn` and `v[0]` (quirk on) or `v[x]`, `x = nnn[11:8]` (quirk off). That
it is not masked is the spec's decision D8 (log 17). -/
def Obligations.JumpWithOffset : Prop :=
  ∀ (nnn : Addr12) (x : Reg) (s : State), x.val = nnn.toNat / 256 →
    ∃ t, exec (.jpV0 nnn) s = .next t ∧
      t.pc.toNat = nnn.toNat + (if s.q then (s.reg 0).toNat else (s.reg x).toNat) ∧ KeepsAllBut (parts [.pc]) s t

/-- 00EE with an empty stack, and 2nnn at the bound `STACK_DEPTH` (decision D9, log 18), take their fault; what stays
of the state is decision D18 (log 13). -/
def Obligations.StackFaults : Prop :=
  ∀ (s : State) (nnn : Addr12),
    (s.stack = [] → TakesFault .ret s .emptyStackReturn) ∧
    (s.params.stackDepth = some s.stack.length → TakesFault (.call nnn) s .stackOverflow)

/-! ## Register loads and arithmetic (42_alu.md) -/

/-- R110, R111, R112: load literal, add literal modulo 256 with no flag, copy register. -/
def Obligations.RegisterLoads : Prop :=
  ∀ (x y : Reg) (nn : Byte) (s : State),
    (encode (.ldImm x nn) = 0x6000 ||| (BitVec.ofNat 16 x.val <<< 8) ||| nn.zeroExtend 16 ∧
      ∃ t, exec (.ldImm x nn) s = .next t ∧ t.reg x = nn ∧ KeepsAllBut (parts [.reg x]) s t) ∧
    (encode (.addImm x nn) = 0x7000 ||| (BitVec.ofNat 16 x.val <<< 8) ||| nn.zeroExtend 16 ∧
      ∃ t, exec (.addImm x nn) s = .next t ∧ (t.reg x).toNat = ((s.reg x).toNat + nn.toNat) % 256 ∧
        KeepsAllBut (parts [.reg x]) s t) ∧
    (encode (.ldReg x y) = 0x8000 ||| (BitVec.ofNat 16 x.val <<< 8) ||| (BitVec.ofNat 16 y.val <<< 4) ∧
      ∃ t, exec (.ldReg x y) s = .next t ∧ t.reg x = s.reg y ∧ KeepsAllBut (parts [.reg x]) s t)

/-- R114, R115, R116: or, and, exclusive or, bit by bit; `v[15]` is no flag of theirs. -/
def Obligations.LogicInstructions : Prop :=
  ∀ (x y : Reg) (s : State),
    (encode (.orReg x y) = 0x8001 ||| (BitVec.ofNat 16 x.val <<< 8) ||| (BitVec.ofNat 16 y.val <<< 4) ∧
      ∃ t, exec (.orReg x y) s = .next t ∧
        (∀ k, k < 8 → (t.reg x).getLsbD k = ((s.reg x).getLsbD k || (s.reg y).getLsbD k)) ∧
        KeepsAllBut (parts [.reg x]) s t) ∧
    (encode (.andReg x y) = 0x8002 ||| (BitVec.ofNat 16 x.val <<< 8) ||| (BitVec.ofNat 16 y.val <<< 4) ∧
      ∃ t, exec (.andReg x y) s = .next t ∧
        (∀ k, k < 8 → (t.reg x).getLsbD k = ((s.reg x).getLsbD k && (s.reg y).getLsbD k)) ∧
        KeepsAllBut (parts [.reg x]) s t) ∧
    (encode (.xorReg x y) = 0x8003 ||| (BitVec.ofNat 16 x.val <<< 8) ||| (BitVec.ofNat 16 y.val <<< 4) ∧
      ∃ t, exec (.xorReg x y) s = .next t ∧
        (∀ k, k < 8 → (t.reg x).getLsbD k = ((s.reg x).getLsbD k ^^ (s.reg y).getLsbD k)) ∧
        KeepsAllBut (parts [.reg x]) s t)

/-- 8xy4: add with carry flag, both operands those of before (R117). That the flag is written last, so that with `x =
15` it is what stays, is the spec's decision D11 (log 19). -/
def Obligations.AddSetsCarry : Prop :=
  ∀ (x y : Reg) (s : State),
    encode (.addReg x y) = 0x8004 ||| (BitVec.ofNat 16 x.val <<< 8) ||| (BitVec.ofNat 16 y.val <<< 4) ∧
    ∃ t, exec (.addReg x y) s = .next t ∧
      (x ≠ 15 → (t.reg x).toNat = ((s.reg x).toNat + (s.reg y).toNat) % 256) ∧
      t.reg 15 = (if 255 < (s.reg x).toNat + (s.reg y).toNat then 1 else 0) ∧
      KeepsAllBut (parts [.reg x, .reg 15]) s t

/-- 8xy5 and 8xy7: the difference modulo 256 and the flag 1 exactly when there is no borrow. The wrap is the spec's
inference in R118; that the flag is written last is its decision D11 (log 19). -/
def Obligations.SubtractSetsNoBorrow : Prop :=
  ∀ (x y : Reg) (s : State),
    (∃ t, exec (.subReg x y) s = .next t ∧
      (x ≠ 15 → (t.reg x).toNat = (if (s.reg y).toNat ≤ (s.reg x).toNat then (s.reg x).toNat - (s.reg y).toNat
        else (s.reg x).toNat + 256 - (s.reg y).toNat)) ∧
      t.reg 15 = (if (s.reg y).toNat ≤ (s.reg x).toNat then 1 else 0) ∧
      KeepsAllBut (parts [.reg x, .reg 15]) s t) ∧
    (∃ t, exec (.subnReg x y) s = .next t ∧
      (x ≠ 15 → (t.reg x).toNat = (if (s.reg x).toNat ≤ (s.reg y).toNat then (s.reg y).toNat - (s.reg x).toNat
        else (s.reg y).toNat + 256 - (s.reg x).toNat)) ∧
      t.reg 15 = (if (s.reg x).toNat ≤ (s.reg y).toNat then 1 else 0) ∧
      KeepsAllBut (parts [.reg x, .reg 15]) s t)

/-- 8xy6 and 8xyE shift `v[y]` when `Q` equals `SHIFT_COPY_POLARITY` and `v[x]` otherwise, by one, the flag being the
bit shifted out. The polarity is a parameter, its default the spec's decision D10 (log 12); the flag last is D11 (log
19). -/
def Obligations.ShiftsFollowThePolarity : Prop :=
  ∀ (x y : Reg) (s : State) (b : Nat),
    b = (if s.q = s.params.shiftCopyPolarity then (s.reg y).toNat else (s.reg x).toNat) →
    (∃ t, exec (.shr x y) s = .next t ∧ (x ≠ 15 → (t.reg x).toNat = b / 2) ∧
      t.reg 15 = (if b % 2 = 1 then 1 else 0) ∧ KeepsAllBut (parts [.reg x, .reg 15]) s t) ∧
    (∃ t, exec (.shl x y) s = .next t ∧ (x ≠ 15 → (t.reg x).toNat = b * 2 % 256) ∧
      t.reg 15 = (if 128 ≤ b then 1 else 0) ∧ KeepsAllBut (parts [.reg x, .reg 15]) s t)

/-- Whoever changes `v[15]` either is one of its six flag writers or names it through `x`, and a flag writer that does
not fault leaves 0 or 1 there. That the flag stays with `x = 15` is the spec's decision D11 (log 19). -/
def Obligations.FlagRegisterWriters : Prop :=
  ∀ (i : Instr) (s t : State), exec i s = .next t →
    (t.reg 15 ≠ s.reg 15 → i.writesFlag = true ∨ i.namesDest 15 = true) ∧
    (i.writesFlag = true → t.fault = none → t.reg 15 = 0 ∨ t.reg 15 = 1)

/-! ## Index register and memory (43_index_and_memory.md) -/

/-- R131: load index. -/
def Obligations.LoadIndexLiteral : Prop :=
  ∀ (nnn : Addr12) (s : State), encode (.ldI nnn) = 0xA000 ||| nnn.zeroExtend 16 ∧
    ∃ t, exec (.ldI nnn) s = .next t ∧ t.i.toNat = nnn.toNat ∧ KeepsAllBut (parts [.index]) s t

/-- R133: the glyph address of the low nibble. -/
def Obligations.LocateGlyph : Prop :=
  ∀ (x : Reg) (s : State), encode (.ldF x) = 0xF029 ||| (BitVec.ofNat 16 x.val <<< 8) ∧
    ∃ t, exec (.ldF x) s = .next t ∧ t.i.toNat = (s.reg x).toNat % 16 * 5 + 0x50 ∧
      KeepsAllBut (parts [.index]) s t

/-- fx1E adds exactly, without mask or flag, and faults where the sum does not fit the register; the 16 bits and the
fault are the spec's decision D7 (log 16), the latched next state and what stays of the state decision D18 (log 13).
-/
def Obligations.AddToIndex : Prop :=
  ∀ (x : Reg) (s : State),
    (s.i.toNat + (s.reg x).toNat ≤ 0xFFFF →
      ∃ t, exec (.addI x) s = .next t ∧ t.i.toNat = s.i.toNat + (s.reg x).toNat ∧
        KeepsAllBut (parts [.index]) s t) ∧
    (0xFFFF < s.i.toNat + (s.reg x).toNat →
      TakesFault (.addI x) s (.indexOverflow (s.i.toNat + (s.reg x).toNat)))

/-- fx33 stores the three decimal digits at `i`, `i + 1`, `i + 2`, and no other byte. The form of memory is the
model's (log 27). -/
def Obligations.StoreDecimalDigits : Prop :=
  ∀ (x : Reg) (s : State), s.mem.wf = true → s.i.toNat + 2 ≤ 4095 →
    ∃ t, exec (.ldB x) s = .next t ∧
      (t.mem.read s.i.toNat).toNat = (s.reg x).toNat / 100 ∧
      (t.mem.read (s.i.toNat + 1)).toNat = (s.reg x).toNat / 10 % 10 ∧
      (t.mem.read (s.i.toNat + 2)).toNat = (s.reg x).toNat % 10 ∧
      KeepsAllBut (bytesFrom s.i.toNat 3) s t

/-- fx55 stores `v[0]` to `v[x]` at `i` to `i + x`, and no other byte; with the quirk on `i` ends at `i + x + 1`. The
form of memory is the model's (log 27). -/
def Obligations.StoreRegisters : Prop :=
  ∀ (x : Reg) (s : State), s.mem.wf = true → s.i.toNat + x.val ≤ 4095 →
    ∃ t, exec (.storeRegs x) s = .next t ∧
      (∀ k : Reg, k ≤ x → t.mem.read (s.i.toNat + k.val) = s.reg k) ∧
      t.i.toNat = (if s.q then s.i.toNat + x.val + 1 else s.i.toNat) ∧
      KeepsAllBut (fun p => bytesFrom s.i.toNat (x.val + 1) p ∨ p = .index) s t

/-- fx65 loads `v[0]` to `v[x]` from `i` to `i + x`; with the quirk on `i` ends at `i + x + 1`. No byte of memory, and
no register above `x`, changes. -/
def Obligations.LoadRegisters : Prop :=
  ∀ (x : Reg) (s : State), s.i.toNat + x.val ≤ 4095 →
    ∃ t, exec (.loadRegs x) s = .next t ∧
      (∀ k : Reg, k ≤ x → t.reg k = s.mem.read (s.i.toNat + k.val)) ∧
      t.i.toNat = (if s.q then s.i.toNat + x.val + 1 else s.i.toNat) ∧
      KeepsAllBut (fun p => (∃ k : Reg, k ≤ x ∧ p = .reg k) ∨ p = .index) s t

/-- fx33, fx55, fx65 and dxyn take a memory fault, with the lowest address outside memory and the kind, exactly when a
byte of the access is outside: the spec's decision D5 (log 14), and D12 for the rows of dxyn (log 20); the latched
next state and what stays of the state are decision D18 (log 13). -/
def Obligations.DataAccessFaults : Prop :=
  ∀ (x y : Reg) (n : RowCount) (s : State),
    (4095 < s.i.toNat + 2 → TakesFault (.ldB x) s (.memoryFault (max s.i.toNat 4096) .write)) ∧
    (4095 < s.i.toNat + x.val → TakesFault (.storeRegs x) s (.memoryFault (max s.i.toNat 4096) .write)) ∧
    (4095 < s.i.toNat + x.val → TakesFault (.loadRegs x) s (.memoryFault (max s.i.toNat 4096) .read)) ∧
    (¬ SpriteInMemory y n s → TakesFault (.drw x y n) s (.memoryFault (max s.i.toNat 4096) .read))

/-- Registers stored by fx55 are what fx65 loads back from the same place, whatever the registers hold by then. The
form of memory is the model's (log 27). -/
def Obligations.StoreThenLoadRegisters : Prop :=
  ∀ (x k : Reg) (s t u : State), s.mem.wf = true → s.i.toNat + x.val ≤ 4095 → k ≤ x →
    exec (.storeRegs x) s = .next t → u.mem = t.mem → u.i = s.i →
    ∃ w, exec (.loadRegs x) u = .next w ∧ w.reg k = s.reg k

/-- Bytes stored by fx55 are fetched by the very next STEP that goes there: code can be modified with nothing between.
The form of memory is the model's (log 27). -/
def Obligations.StoredCodeIsFetched : Prop :=
  ∀ (x k : Reg) (s t u : State) (k' : Reg), s.mem.wf = true → s.i.toNat + x.val ≤ 4095 → k'.val = k.val + 1 → k' ≤ x →
    exec (.storeRegs x) s = .next t → u.mem = t.mem → u.pc.toNat = s.i.toNat + k.val → u.oddPcFaults = false →
    u.fetch = .ok (s.reg k ++ s.reg k')

/-- Only fx33 and fx55 write memory (R51), and only annn, fx1E, fx29, fx55 and fx65 write `i` (R24). -/
def Obligations.MemoryAndIndexWriters : Prop :=
  ∀ (i : Instr) (s t : State), exec i s = .next t →
    ((∀ x, i ≠ .ldB x) → (∀ x, i ≠ .storeRegs x) → t.mem = s.mem) ∧
    ((∀ a, i ≠ .ldI a) → (∀ x, i ≠ .addI x) → (∀ x, i ≠ .ldF x) → (∀ x, i ≠ .storeRegs x) → (∀ x, i ≠ .loadRegs x) →
      t.i = s.i)

/-! ## Display (44_display.md) -/

/-- Clear screen turns every cell off and changes nothing else (R141). That it leaves `CHANGED` at 0 is the spec's
decision D25 (log 24). -/
def Obligations.ClearScreen : Prop :=
  encode .cls = 0x00E0 ∧
  ∀ s : State, ∃ t, exec .cls s = .next t ∧ (∀ c, t.fb.isOn c = false) ∧
    KeepsAllBut (fun p => ∃ c, p = .cell c) s t

/-- dxyn XORs exactly the cells under a set, drawn bit; `v[15]` is 1 exactly when one of them was on; `CHANGED` is 1;
every other cell, register and byte stays. The cells are the spec's D2 in the model's form (log 6), the bit order is
D3 (log 8), the operand order and the rows D12 (log 20), `CHANGED` D25 (log 24). -/
def Obligations.DrawXorsTheSprite : Prop :=
  ∀ (x y : Reg) (n : RowCount) (s : State), s.fb.wf s.params = true → SpriteInMemory y n s →
    ∃ t, exec (.drw x y n) s = .next t ∧
      (∀ cx cy, cx < s.params.width → cy < s.params.height →
        t.fb.isOn (cy * s.params.width + cx) =
          (s.fb.isOn (cy * s.params.width + cx) ^^ SpriteCovers x y n s cx cy)) ∧
      (t.reg 15 = 1 ↔ ∃ cx cy, SpriteCovers x y n s cx cy = true ∧ s.fb.isOn (cy * s.params.width + cx) = true) ∧
      (t.reg 15 = 0 ∨ t.reg 15 = 1) ∧
      t.changed = some true ∧
      KeepsAllBut (fun p => p = .reg 15 ∨ p = .changed ∨
        ∃ cx cy, p = .cell (cy * s.params.width + cx) ∧ SpriteCovers x y n s cx cy = true) s t

/-- Drawing the identical sprite at the identical position twice restores the framebuffer; and after a first draw
without collision the second reports one exactly when some bit was drawn (R144; `x` and `y` other than 15, as R144
derives). The cells, the bit order and the rows read are the spec's D2, D3 and D12 (log 6, 8, 20). -/
def Obligations.DrawTwiceRestores : Prop :=
  ∀ (x y : Reg) (n : RowCount) (s t u : State), s.fb.wf s.params = true → SpriteInMemory y n s → x ≠ 15 → y ≠ 15 →
    exec (.drw x y n) s = .next t → exec (.drw x y n) t = .next u →
    u.fb = s.fb ∧ (t.reg 15 = 0 → (u.reg 15 = 1 ↔ ∃ cx cy, SpriteCovers x y n s cx cy = true))

/-- The framebuffer is mutated only by 00E0 and dxyn, the stack only by 2nnn and 00EE, and the generator only by cxnn.
That no other instruction touches the stack is the spec's decision D29 (log 35). -/
def Obligations.ScreenStackGeneratorWriters : Prop :=
  ∀ (i : Instr) (s t : State), exec i s = .next t →
    (i ≠ .cls → (∀ x y n, i ≠ .drw x y n) → t.fb = s.fb) ∧
    ((∀ a, i ≠ .call a) → i ≠ .ret → t.stack = s.stack) ∧
    ((∀ x nn, i ≠ .rnd x nn) → t.rng = s.rng)

/-! ## Random (45_random.md) -/

/-- cxnn advances the generator once by the three shifts (13, 7, 17) on 64 bits and writes the low byte of the new
state under the mask; the truncation is the spec's D16 (log 36). -/
def Obligations.RandomByteUnderMask : Prop :=
  ∀ (x : Reg) (nn : Byte) (s : State) (a b c : RngWord),
    a = s.rng ^^^ BitVec.ofNat 64 (s.rng.toNat * 2 ^ 13) → b = a ^^^ BitVec.ofNat 64 (a.toNat / 2 ^ 7) →
    c = b ^^^ BitVec.ofNat 64 (b.toNat * 2 ^ 17) →
    ∃ t, exec (.rnd x nn) s = .next t ∧ t.rng = c ∧ t.reg x = BitVec.ofNat 8 (c.toNat % 256) &&& nn ∧
      KeepsAllBut (parts [.rng, .reg x]) s t

/-- R152: the byte is the same whether it is taken before or after the third shift. -/
def Obligations.RandomTapIsImmaterial : Prop :=
  ∀ r : RngWord, randomByte r = (xorshiftFirstTwo r).extractLsb' 0 8

/-- R154: zero is the only state the generator takes to zero. Truncation to 64 bits is the spec's D16 (log 36). -/
def Obligations.GeneratorZeroState : Prop :=
  ∀ r : RngWord, xorshift r = 0 ↔ r = 0

/-! ## Keys and timers (46_keys_and_timers.md) -/

/-- ex9E and exA1 select the key by the whole byte; a byte above 15 takes `KeyIndexFault`, the spec's decision D13
(log 21); the latched next state and what stays of the state are decision D18 (log 13). -/
def Obligations.KeySkips : Prop :=
  ∀ (x : Reg) (s : State),
    ((s.reg x).toNat ≤ 15 →
      (∃ t, exec (.skp x) s = .next t ∧
        t.pc = (if s.pressed.getLsbD (s.reg x).toNat then s.pc + 2 else s.pc) ∧ KeepsAllBut (parts [.pc]) s t) ∧
      (∃ t, exec (.sknp x) s = .next t ∧
        t.pc = (if s.pressed.getLsbD (s.reg x).toNat then s.pc else s.pc + 2) ∧ KeepsAllBut (parts [.pc]) s t)) ∧
    (15 < (s.reg x).toNat → TakesFault (.skp x) s (.keyIndexFault (s.reg x)) ∧
      TakesFault (.sknp x) s (.keyIndexFault (s.reg x)))

/-- R163, R164, R165: reading the delay timer and setting both. -/
def Obligations.TimerTransfers : Prop :=
  ∀ (x : Reg) (s : State),
    (encode (.ldVxDt x) = 0xF007 ||| (BitVec.ofNat 16 x.val <<< 8) ∧
      ∃ t, exec (.ldVxDt x) s = .next t ∧ t.reg x = s.dt ∧ KeepsAllBut (parts [.reg x]) s t) ∧
    (encode (.ldDtVx x) = 0xF015 ||| (BitVec.ofNat 16 x.val <<< 8) ∧
      ∃ t, exec (.ldDtVx x) s = .next t ∧ t.dt = s.reg x ∧ KeepsAllBut (parts [.delayTimer]) s t) ∧
    (encode (.ldStVx x) = 0xF018 ||| (BitVec.ofNat 16 x.val <<< 8) ∧
      ∃ t, exec (.ldStVx x) s = .next t ∧ t.st = s.reg x ∧ (t.soundActive = true ↔ s.reg x ≠ 0) ∧
        KeepsAllBut (parts [.soundTimer]) s t)

/-- fx0A stands still while no key is released, and otherwise stores the index of a released key and goes on. Which of
several is open in the spec (D14): a free value (log 22), so the statement says only that it is a released one. -/
def Obligations.WaitForKeyRelease : Prop :=
  ∀ (x : Reg) (s : State),
    ((∀ k, k < 16 → s.released.getLsbD k = false) →
      ∃ t, exec (.ldVxK x) s = .next t ∧ t.pc = s.pc - 2 ∧ KeepsAllBut (parts [.pc]) s t) ∧
    ((∃ k, k < 16 ∧ s.released.getLsbD k = true) →
      ∃ t k, exec (.ldVxK x) s = .next t ∧ k < 16 ∧ s.released.getLsbD k = true ∧ (t.reg x).toNat = k ∧
        KeepsAllBut (parts [.reg x]) s t)

/-- A waiting step leaves the whole machine as it is: `pc` still points at the fx0A, and there is no latch (R166,
R167). -/
def Obligations.WaitingStepStandsStill : Prop :=
  ∀ (s : State) (x : Reg) (pressed : BitVec 16), s.CanFetch → s.nextEvent = .step pressed 0 →
    s.mem.wordAt s.pc.toNat = 0xF00A ||| (BitVec.ofNat 16 x.val <<< 8) →
    ∃ t, step s = .next t ∧ KeepsAllBut (parts [.changed, .keys, .host]) s t

/-! ## Reset, invariants, end of run (10_state.md, 70_reset_and_hazards.md) -/

/-- R36: memory after construction: the glyph table, the ROM image byte for byte, zero elsewhere. -/
def Obligations.ConstructedMemory : Prop :=
  ∀ (p : Params) (glyphs rom : List Byte) (q : Bool) (seed : RngWord), glyphs.length = 80 → rom.length ≤ 3584 →
    ∃ t, State.construct p glyphs q seed true rom = .next t ∧
      (∀ j, j < 80 → t.mem.read (0x050 + j) = glyphs.getD j 0) ∧
      (∀ j, j < rom.length → t.mem.read (0x200 + j) = rom.getD j 0) ∧
      ∀ a, a < 4096 → ¬ (0x050 ≤ a ∧ a < 0x0A0) → ¬ (0x200 ≤ a ∧ a < 0x200 + rom.length) → t.mem.read a = 0

/-- The registers after construction are the spec's decision D15 (log 9), the seed and the strap its inputs; that
without entropy construction answers a machine faulted from the start, built as any other, is decision D28 with the
model's choice (log 26). The default inputs give State.reset (log 11, 26). -/
def Obligations.ConstructedRegisters : Prop :=
  (∀ (p : Params) (glyphs rom : List Byte) (q valid : Bool) (seed : RngWord),
    glyphs.length = 80 → rom.length ≤ 3584 →
    ∃ t, State.construct p glyphs q seed valid rom = .next t ∧
      t.pc = 0x0200 ∧ t.i = 0 ∧ (∀ k, t.reg k = 0) ∧ t.stack = [] ∧ t.dt = 0 ∧ t.st = 0 ∧ (∀ c, t.fb.isOn c = false) ∧
      t.rng = seed ∧ t.q = q ∧ t.params = p ∧
      t.fault = (if valid then none else some .entropyUnavailable)) ∧
  State.construct Config.defaultParams Config.glyphs Config.quirk Config.seed true [] = .next State.reset

/-- Every construction, and State.reset, meets the invariant. It rests on the reset values of the spec's decision D15
(`pc` PRESUMED, the empty stack and the blank screen: log 9) and, without entropy, on the faulted construction of D28
(log 26). -/
def Obligations.InvariantAtConstruction : Prop :=
  State.reset.Inv ∧
  ∀ (p : Params) (glyphs rom : List Byte) (q valid : Bool) (seed : RngWord) (t : State),
    State.construct p glyphs q seed valid rom = .next t → t.Inv

/-- The invariant of R40 and R109 with the canonical forms: every event keeps it, from every state that meets it, for
every instruction, key input, quirk setting and parameter. The bounds rest on the spec's decisions D5, D6, D8 and D9
(log 14, 15, 17, 18), the canonical forms are the model's (log 6, 27). -/
def Obligations.InvariantIsKept : Prop :=
  ∀ s t : State, s.Inv → step s = .next t → t.Inv

/-- At the end of a run (a jump to itself: the spec's definition D24, log 32) a STEP changes nothing, and a TICK only
the timers; both stay at the end of the run. -/
def Obligations.EndOfRunIsStable : Prop :=
  ∀ s : State, s.EndOfRun →
    (∀ pressed released, s.nextEvent = .step pressed released →
      ∃ t, step s = .next t ∧ t.EndOfRun ∧ KeepsAllBut (parts [.changed, .keys, .host]) s t) ∧
    (s.nextEvent = .tick →
      ∃ t, step s = .next t ∧ t.EndOfRun ∧ KeepsAllBut (parts [.delayTimer, .soundTimer, .host]) s t)

/-- The host alone chooses the events: a step takes the first event of its sequence, exactly one, and adds none (R7,
R169; the open schedule is the spec's decision D20). That the sequence is a queue with a count of the events taken is
the model's choice (log 1, log 2). -/
def Obligations.EventsAreTakenInOrder : Prop :=
  (∀ (s : State) (e : HostEvent) (es : List HostEvent), s.events = e :: es → s.nextEvent = e) ∧
  ∀ s t : State, step s = .next t → t.events = s.events.tail ∧ t.draws = s.draws + 1
end

