-- ==== Sys2Proof/Laws/State.lean ====
section
/-! SUPPORT. One lemma per field per update of State, so that no proof unfolds a record update. -/

namespace Sys2Proof.Machine

@[simp] theorem State.setReg_mem (k : Reg) (b : Byte) (s : State) : (s.setReg k b).mem = s.mem := rfl
@[simp] theorem State.setReg_pc (k : Reg) (b : Byte) (s : State) : (s.setReg k b).pc = s.pc := rfl
@[simp] theorem State.setReg_i (k : Reg) (b : Byte) (s : State) : (s.setReg k b).i = s.i := rfl
@[simp] theorem State.setReg_v (k : Reg) (b : Byte) (s : State) : (s.setReg k b).v = s.v.set k b := rfl
@[simp] theorem State.setReg_stack (k : Reg) (b : Byte) (s : State) : (s.setReg k b).stack = s.stack := rfl
@[simp] theorem State.setReg_dt (k : Reg) (b : Byte) (s : State) : (s.setReg k b).dt = s.dt := rfl
@[simp] theorem State.setReg_st (k : Reg) (b : Byte) (s : State) : (s.setReg k b).st = s.st := rfl
@[simp] theorem State.setReg_fb (k : Reg) (b : Byte) (s : State) : (s.setReg k b).fb = s.fb := rfl
@[simp] theorem State.setReg_rng (k : Reg) (b : Byte) (s : State) : (s.setReg k b).rng = s.rng := rfl
@[simp] theorem State.setReg_q (k : Reg) (b : Byte) (s : State) : (s.setReg k b).q = s.q := rfl
@[simp] theorem State.setReg_fault (k : Reg) (b : Byte) (s : State) : (s.setReg k b).fault = s.fault := rfl
@[simp] theorem State.setReg_params (k : Reg) (b : Byte) (s : State) : (s.setReg k b).params = s.params := rfl
@[simp] theorem State.setReg_pressed (k : Reg) (b : Byte) (s : State) : (s.setReg k b).pressed = s.pressed := rfl
@[simp] theorem State.setReg_released (k : Reg) (b : Byte) (s : State) : (s.setReg k b).released = s.released := rfl
@[simp] theorem State.setReg_changed (k : Reg) (b : Byte) (s : State) : (s.setReg k b).changed = s.changed := rfl
@[simp] theorem State.setReg_events (k : Reg) (b : Byte) (s : State) : (s.setReg k b).events = s.events := rfl
@[simp] theorem State.setReg_draws (k : Reg) (b : Byte) (s : State) : (s.setReg k b).draws = s.draws := rfl

@[simp] theorem State.setV_mem (w : Vector Byte 16) (s : State) : (s.setV w).mem = s.mem := rfl
@[simp] theorem State.setV_pc (w : Vector Byte 16) (s : State) : (s.setV w).pc = s.pc := rfl
@[simp] theorem State.setV_i (w : Vector Byte 16) (s : State) : (s.setV w).i = s.i := rfl
@[simp] theorem State.setV_v (w : Vector Byte 16) (s : State) : (s.setV w).v = w := rfl
@[simp] theorem State.setV_stack (w : Vector Byte 16) (s : State) : (s.setV w).stack = s.stack := rfl
@[simp] theorem State.setV_dt (w : Vector Byte 16) (s : State) : (s.setV w).dt = s.dt := rfl
@[simp] theorem State.setV_st (w : Vector Byte 16) (s : State) : (s.setV w).st = s.st := rfl
@[simp] theorem State.setV_fb (w : Vector Byte 16) (s : State) : (s.setV w).fb = s.fb := rfl
@[simp] theorem State.setV_rng (w : Vector Byte 16) (s : State) : (s.setV w).rng = s.rng := rfl
@[simp] theorem State.setV_q (w : Vector Byte 16) (s : State) : (s.setV w).q = s.q := rfl
@[simp] theorem State.setV_fault (w : Vector Byte 16) (s : State) : (s.setV w).fault = s.fault := rfl
@[simp] theorem State.setV_params (w : Vector Byte 16) (s : State) : (s.setV w).params = s.params := rfl
@[simp] theorem State.setV_pressed (w : Vector Byte 16) (s : State) : (s.setV w).pressed = s.pressed := rfl
@[simp] theorem State.setV_released (w : Vector Byte 16) (s : State) : (s.setV w).released = s.released := rfl
@[simp] theorem State.setV_changed (w : Vector Byte 16) (s : State) : (s.setV w).changed = s.changed := rfl
@[simp] theorem State.setV_events (w : Vector Byte 16) (s : State) : (s.setV w).events = s.events := rfl
@[simp] theorem State.setV_draws (w : Vector Byte 16) (s : State) : (s.setV w).draws = s.draws := rfl

@[simp] theorem State.setPc_mem (a : Word) (s : State) : (s.setPc a).mem = s.mem := rfl
@[simp] theorem State.setPc_pc (a : Word) (s : State) : (s.setPc a).pc = a := rfl
@[simp] theorem State.setPc_i (a : Word) (s : State) : (s.setPc a).i = s.i := rfl
@[simp] theorem State.setPc_v (a : Word) (s : State) : (s.setPc a).v = s.v := rfl
@[simp] theorem State.setPc_stack (a : Word) (s : State) : (s.setPc a).stack = s.stack := rfl
@[simp] theorem State.setPc_dt (a : Word) (s : State) : (s.setPc a).dt = s.dt := rfl
@[simp] theorem State.setPc_st (a : Word) (s : State) : (s.setPc a).st = s.st := rfl
@[simp] theorem State.setPc_fb (a : Word) (s : State) : (s.setPc a).fb = s.fb := rfl
@[simp] theorem State.setPc_rng (a : Word) (s : State) : (s.setPc a).rng = s.rng := rfl
@[simp] theorem State.setPc_q (a : Word) (s : State) : (s.setPc a).q = s.q := rfl
@[simp] theorem State.setPc_fault (a : Word) (s : State) : (s.setPc a).fault = s.fault := rfl
@[simp] theorem State.setPc_params (a : Word) (s : State) : (s.setPc a).params = s.params := rfl
@[simp] theorem State.setPc_pressed (a : Word) (s : State) : (s.setPc a).pressed = s.pressed := rfl
@[simp] theorem State.setPc_released (a : Word) (s : State) : (s.setPc a).released = s.released := rfl
@[simp] theorem State.setPc_changed (a : Word) (s : State) : (s.setPc a).changed = s.changed := rfl
@[simp] theorem State.setPc_events (a : Word) (s : State) : (s.setPc a).events = s.events := rfl
@[simp] theorem State.setPc_draws (a : Word) (s : State) : (s.setPc a).draws = s.draws := rfl

@[simp] theorem State.setI_mem (a : Word) (s : State) : (s.setI a).mem = s.mem := rfl
@[simp] theorem State.setI_pc (a : Word) (s : State) : (s.setI a).pc = s.pc := rfl
@[simp] theorem State.setI_i (a : Word) (s : State) : (s.setI a).i = a := rfl
@[simp] theorem State.setI_v (a : Word) (s : State) : (s.setI a).v = s.v := rfl
@[simp] theorem State.setI_stack (a : Word) (s : State) : (s.setI a).stack = s.stack := rfl
@[simp] theorem State.setI_dt (a : Word) (s : State) : (s.setI a).dt = s.dt := rfl
@[simp] theorem State.setI_st (a : Word) (s : State) : (s.setI a).st = s.st := rfl
@[simp] theorem State.setI_fb (a : Word) (s : State) : (s.setI a).fb = s.fb := rfl
@[simp] theorem State.setI_rng (a : Word) (s : State) : (s.setI a).rng = s.rng := rfl
@[simp] theorem State.setI_q (a : Word) (s : State) : (s.setI a).q = s.q := rfl
@[simp] theorem State.setI_fault (a : Word) (s : State) : (s.setI a).fault = s.fault := rfl
@[simp] theorem State.setI_params (a : Word) (s : State) : (s.setI a).params = s.params := rfl
@[simp] theorem State.setI_pressed (a : Word) (s : State) : (s.setI a).pressed = s.pressed := rfl
@[simp] theorem State.setI_released (a : Word) (s : State) : (s.setI a).released = s.released := rfl
@[simp] theorem State.setI_changed (a : Word) (s : State) : (s.setI a).changed = s.changed := rfl
@[simp] theorem State.setI_events (a : Word) (s : State) : (s.setI a).events = s.events := rfl
@[simp] theorem State.setI_draws (a : Word) (s : State) : (s.setI a).draws = s.draws := rfl

@[simp] theorem State.setMem_mem (m : Memory) (s : State) : (s.setMem m).mem = m := rfl
@[simp] theorem State.setMem_pc (m : Memory) (s : State) : (s.setMem m).pc = s.pc := rfl
@[simp] theorem State.setMem_i (m : Memory) (s : State) : (s.setMem m).i = s.i := rfl
@[simp] theorem State.setMem_v (m : Memory) (s : State) : (s.setMem m).v = s.v := rfl
@[simp] theorem State.setMem_stack (m : Memory) (s : State) : (s.setMem m).stack = s.stack := rfl
@[simp] theorem State.setMem_dt (m : Memory) (s : State) : (s.setMem m).dt = s.dt := rfl
@[simp] theorem State.setMem_st (m : Memory) (s : State) : (s.setMem m).st = s.st := rfl
@[simp] theorem State.setMem_fb (m : Memory) (s : State) : (s.setMem m).fb = s.fb := rfl
@[simp] theorem State.setMem_rng (m : Memory) (s : State) : (s.setMem m).rng = s.rng := rfl
@[simp] theorem State.setMem_q (m : Memory) (s : State) : (s.setMem m).q = s.q := rfl
@[simp] theorem State.setMem_fault (m : Memory) (s : State) : (s.setMem m).fault = s.fault := rfl
@[simp] theorem State.setMem_params (m : Memory) (s : State) : (s.setMem m).params = s.params := rfl
@[simp] theorem State.setMem_pressed (m : Memory) (s : State) : (s.setMem m).pressed = s.pressed := rfl
@[simp] theorem State.setMem_released (m : Memory) (s : State) : (s.setMem m).released = s.released := rfl
@[simp] theorem State.setMem_changed (m : Memory) (s : State) : (s.setMem m).changed = s.changed := rfl
@[simp] theorem State.setMem_events (m : Memory) (s : State) : (s.setMem m).events = s.events := rfl
@[simp] theorem State.setMem_draws (m : Memory) (s : State) : (s.setMem m).draws = s.draws := rfl

@[simp] theorem State.setStack_mem (k : List Word) (s : State) : (s.setStack k).mem = s.mem := rfl
@[simp] theorem State.setStack_pc (k : List Word) (s : State) : (s.setStack k).pc = s.pc := rfl
@[simp] theorem State.setStack_i (k : List Word) (s : State) : (s.setStack k).i = s.i := rfl
@[simp] theorem State.setStack_v (k : List Word) (s : State) : (s.setStack k).v = s.v := rfl
@[simp] theorem State.setStack_stack (k : List Word) (s : State) : (s.setStack k).stack = k := rfl
@[simp] theorem State.setStack_dt (k : List Word) (s : State) : (s.setStack k).dt = s.dt := rfl
@[simp] theorem State.setStack_st (k : List Word) (s : State) : (s.setStack k).st = s.st := rfl
@[simp] theorem State.setStack_fb (k : List Word) (s : State) : (s.setStack k).fb = s.fb := rfl
@[simp] theorem State.setStack_rng (k : List Word) (s : State) : (s.setStack k).rng = s.rng := rfl
@[simp] theorem State.setStack_q (k : List Word) (s : State) : (s.setStack k).q = s.q := rfl
@[simp] theorem State.setStack_fault (k : List Word) (s : State) : (s.setStack k).fault = s.fault := rfl
@[simp] theorem State.setStack_params (k : List Word) (s : State) : (s.setStack k).params = s.params := rfl
@[simp] theorem State.setStack_pressed (k : List Word) (s : State) : (s.setStack k).pressed = s.pressed := rfl
@[simp] theorem State.setStack_released (k : List Word) (s : State) : (s.setStack k).released = s.released := rfl
@[simp] theorem State.setStack_changed (k : List Word) (s : State) : (s.setStack k).changed = s.changed := rfl
@[simp] theorem State.setStack_events (k : List Word) (s : State) : (s.setStack k).events = s.events := rfl
@[simp] theorem State.setStack_draws (k : List Word) (s : State) : (s.setStack k).draws = s.draws := rfl

@[simp] theorem State.setDt_mem (b : Byte) (s : State) : (s.setDt b).mem = s.mem := rfl
@[simp] theorem State.setDt_pc (b : Byte) (s : State) : (s.setDt b).pc = s.pc := rfl
@[simp] theorem State.setDt_i (b : Byte) (s : State) : (s.setDt b).i = s.i := rfl
@[simp] theorem State.setDt_v (b : Byte) (s : State) : (s.setDt b).v = s.v := rfl
@[simp] theorem State.setDt_stack (b : Byte) (s : State) : (s.setDt b).stack = s.stack := rfl
@[simp] theorem State.setDt_dt (b : Byte) (s : State) : (s.setDt b).dt = b := rfl
@[simp] theorem State.setDt_st (b : Byte) (s : State) : (s.setDt b).st = s.st := rfl
@[simp] theorem State.setDt_fb (b : Byte) (s : State) : (s.setDt b).fb = s.fb := rfl
@[simp] theorem State.setDt_rng (b : Byte) (s : State) : (s.setDt b).rng = s.rng := rfl
@[simp] theorem State.setDt_q (b : Byte) (s : State) : (s.setDt b).q = s.q := rfl
@[simp] theorem State.setDt_fault (b : Byte) (s : State) : (s.setDt b).fault = s.fault := rfl
@[simp] theorem State.setDt_params (b : Byte) (s : State) : (s.setDt b).params = s.params := rfl
@[simp] theorem State.setDt_pressed (b : Byte) (s : State) : (s.setDt b).pressed = s.pressed := rfl
@[simp] theorem State.setDt_released (b : Byte) (s : State) : (s.setDt b).released = s.released := rfl
@[simp] theorem State.setDt_changed (b : Byte) (s : State) : (s.setDt b).changed = s.changed := rfl
@[simp] theorem State.setDt_events (b : Byte) (s : State) : (s.setDt b).events = s.events := rfl
@[simp] theorem State.setDt_draws (b : Byte) (s : State) : (s.setDt b).draws = s.draws := rfl

@[simp] theorem State.setSt_mem (b : Byte) (s : State) : (s.setSt b).mem = s.mem := rfl
@[simp] theorem State.setSt_pc (b : Byte) (s : State) : (s.setSt b).pc = s.pc := rfl
@[simp] theorem State.setSt_i (b : Byte) (s : State) : (s.setSt b).i = s.i := rfl
@[simp] theorem State.setSt_v (b : Byte) (s : State) : (s.setSt b).v = s.v := rfl
@[simp] theorem State.setSt_stack (b : Byte) (s : State) : (s.setSt b).stack = s.stack := rfl
@[simp] theorem State.setSt_dt (b : Byte) (s : State) : (s.setSt b).dt = s.dt := rfl
@[simp] theorem State.setSt_st (b : Byte) (s : State) : (s.setSt b).st = b := rfl
@[simp] theorem State.setSt_fb (b : Byte) (s : State) : (s.setSt b).fb = s.fb := rfl
@[simp] theorem State.setSt_rng (b : Byte) (s : State) : (s.setSt b).rng = s.rng := rfl
@[simp] theorem State.setSt_q (b : Byte) (s : State) : (s.setSt b).q = s.q := rfl
@[simp] theorem State.setSt_fault (b : Byte) (s : State) : (s.setSt b).fault = s.fault := rfl
@[simp] theorem State.setSt_params (b : Byte) (s : State) : (s.setSt b).params = s.params := rfl
@[simp] theorem State.setSt_pressed (b : Byte) (s : State) : (s.setSt b).pressed = s.pressed := rfl
@[simp] theorem State.setSt_released (b : Byte) (s : State) : (s.setSt b).released = s.released := rfl
@[simp] theorem State.setSt_changed (b : Byte) (s : State) : (s.setSt b).changed = s.changed := rfl
@[simp] theorem State.setSt_events (b : Byte) (s : State) : (s.setSt b).events = s.events := rfl
@[simp] theorem State.setSt_draws (b : Byte) (s : State) : (s.setSt b).draws = s.draws := rfl

@[simp] theorem State.setFb_mem (f : Screen) (s : State) : (s.setFb f).mem = s.mem := rfl
@[simp] theorem State.setFb_pc (f : Screen) (s : State) : (s.setFb f).pc = s.pc := rfl
@[simp] theorem State.setFb_i (f : Screen) (s : State) : (s.setFb f).i = s.i := rfl
@[simp] theorem State.setFb_v (f : Screen) (s : State) : (s.setFb f).v = s.v := rfl
@[simp] theorem State.setFb_stack (f : Screen) (s : State) : (s.setFb f).stack = s.stack := rfl
@[simp] theorem State.setFb_dt (f : Screen) (s : State) : (s.setFb f).dt = s.dt := rfl
@[simp] theorem State.setFb_st (f : Screen) (s : State) : (s.setFb f).st = s.st := rfl
@[simp] theorem State.setFb_fb (f : Screen) (s : State) : (s.setFb f).fb = f := rfl
@[simp] theorem State.setFb_rng (f : Screen) (s : State) : (s.setFb f).rng = s.rng := rfl
@[simp] theorem State.setFb_q (f : Screen) (s : State) : (s.setFb f).q = s.q := rfl
@[simp] theorem State.setFb_fault (f : Screen) (s : State) : (s.setFb f).fault = s.fault := rfl
@[simp] theorem State.setFb_params (f : Screen) (s : State) : (s.setFb f).params = s.params := rfl
@[simp] theorem State.setFb_pressed (f : Screen) (s : State) : (s.setFb f).pressed = s.pressed := rfl
@[simp] theorem State.setFb_released (f : Screen) (s : State) : (s.setFb f).released = s.released := rfl
@[simp] theorem State.setFb_changed (f : Screen) (s : State) : (s.setFb f).changed = s.changed := rfl
@[simp] theorem State.setFb_events (f : Screen) (s : State) : (s.setFb f).events = s.events := rfl
@[simp] theorem State.setFb_draws (f : Screen) (s : State) : (s.setFb f).draws = s.draws := rfl

@[simp] theorem State.setRng_mem (r : RngWord) (s : State) : (s.setRng r).mem = s.mem := rfl
@[simp] theorem State.setRng_pc (r : RngWord) (s : State) : (s.setRng r).pc = s.pc := rfl
@[simp] theorem State.setRng_i (r : RngWord) (s : State) : (s.setRng r).i = s.i := rfl
@[simp] theorem State.setRng_v (r : RngWord) (s : State) : (s.setRng r).v = s.v := rfl
@[simp] theorem State.setRng_stack (r : RngWord) (s : State) : (s.setRng r).stack = s.stack := rfl
@[simp] theorem State.setRng_dt (r : RngWord) (s : State) : (s.setRng r).dt = s.dt := rfl
@[simp] theorem State.setRng_st (r : RngWord) (s : State) : (s.setRng r).st = s.st := rfl
@[simp] theorem State.setRng_fb (r : RngWord) (s : State) : (s.setRng r).fb = s.fb := rfl
@[simp] theorem State.setRng_rng (r : RngWord) (s : State) : (s.setRng r).rng = r := rfl
@[simp] theorem State.setRng_q (r : RngWord) (s : State) : (s.setRng r).q = s.q := rfl
@[simp] theorem State.setRng_fault (r : RngWord) (s : State) : (s.setRng r).fault = s.fault := rfl
@[simp] theorem State.setRng_params (r : RngWord) (s : State) : (s.setRng r).params = s.params := rfl
@[simp] theorem State.setRng_pressed (r : RngWord) (s : State) : (s.setRng r).pressed = s.pressed := rfl
@[simp] theorem State.setRng_released (r : RngWord) (s : State) : (s.setRng r).released = s.released := rfl
@[simp] theorem State.setRng_changed (r : RngWord) (s : State) : (s.setRng r).changed = s.changed := rfl
@[simp] theorem State.setRng_events (r : RngWord) (s : State) : (s.setRng r).events = s.events := rfl
@[simp] theorem State.setRng_draws (r : RngWord) (s : State) : (s.setRng r).draws = s.draws := rfl

@[simp] theorem State.setChanged_mem (c : Option Bool) (s : State) : (s.setChanged c).mem = s.mem := rfl
@[simp] theorem State.setChanged_pc (c : Option Bool) (s : State) : (s.setChanged c).pc = s.pc := rfl
@[simp] theorem State.setChanged_i (c : Option Bool) (s : State) : (s.setChanged c).i = s.i := rfl
@[simp] theorem State.setChanged_v (c : Option Bool) (s : State) : (s.setChanged c).v = s.v := rfl
@[simp] theorem State.setChanged_stack (c : Option Bool) (s : State) : (s.setChanged c).stack = s.stack := rfl
@[simp] theorem State.setChanged_dt (c : Option Bool) (s : State) : (s.setChanged c).dt = s.dt := rfl
@[simp] theorem State.setChanged_st (c : Option Bool) (s : State) : (s.setChanged c).st = s.st := rfl
@[simp] theorem State.setChanged_fb (c : Option Bool) (s : State) : (s.setChanged c).fb = s.fb := rfl
@[simp] theorem State.setChanged_rng (c : Option Bool) (s : State) : (s.setChanged c).rng = s.rng := rfl
@[simp] theorem State.setChanged_q (c : Option Bool) (s : State) : (s.setChanged c).q = s.q := rfl
@[simp] theorem State.setChanged_fault (c : Option Bool) (s : State) : (s.setChanged c).fault = s.fault := rfl
@[simp] theorem State.setChanged_params (c : Option Bool) (s : State) : (s.setChanged c).params = s.params := rfl
@[simp] theorem State.setChanged_pressed (c : Option Bool) (s : State) : (s.setChanged c).pressed = s.pressed := rfl
@[simp] theorem State.setChanged_released (c : Option Bool) (s : State) : (s.setChanged c).released = s.released := rfl
@[simp] theorem State.setChanged_changed (c : Option Bool) (s : State) : (s.setChanged c).changed = c := rfl
@[simp] theorem State.setChanged_events (c : Option Bool) (s : State) : (s.setChanged c).events = s.events := rfl
@[simp] theorem State.setChanged_draws (c : Option Bool) (s : State) : (s.setChanged c).draws = s.draws := rfl

@[simp] theorem State.push_mem (e : Word) (s : State) : (s.push e).mem = s.mem := rfl
@[simp] theorem State.push_pc (e : Word) (s : State) : (s.push e).pc = s.pc := rfl
@[simp] theorem State.push_i (e : Word) (s : State) : (s.push e).i = s.i := rfl
@[simp] theorem State.push_v (e : Word) (s : State) : (s.push e).v = s.v := rfl
@[simp] theorem State.push_stack (e : Word) (s : State) : (s.push e).stack = e :: s.stack := rfl
@[simp] theorem State.push_dt (e : Word) (s : State) : (s.push e).dt = s.dt := rfl
@[simp] theorem State.push_st (e : Word) (s : State) : (s.push e).st = s.st := rfl
@[simp] theorem State.push_fb (e : Word) (s : State) : (s.push e).fb = s.fb := rfl
@[simp] theorem State.push_rng (e : Word) (s : State) : (s.push e).rng = s.rng := rfl
@[simp] theorem State.push_q (e : Word) (s : State) : (s.push e).q = s.q := rfl
@[simp] theorem State.push_fault (e : Word) (s : State) : (s.push e).fault = s.fault := rfl
@[simp] theorem State.push_params (e : Word) (s : State) : (s.push e).params = s.params := rfl
@[simp] theorem State.push_pressed (e : Word) (s : State) : (s.push e).pressed = s.pressed := rfl
@[simp] theorem State.push_released (e : Word) (s : State) : (s.push e).released = s.released := rfl
@[simp] theorem State.push_changed (e : Word) (s : State) : (s.push e).changed = s.changed := rfl
@[simp] theorem State.push_events (e : Word) (s : State) : (s.push e).events = s.events := rfl
@[simp] theorem State.push_draws (e : Word) (s : State) : (s.push e).draws = s.draws := rfl

@[simp] theorem State.storeBytes_mem (a : Nat) (bs : List Byte) (s : State) : (s.storeBytes a bs).mem = s.mem.writeBytes a bs := rfl
@[simp] theorem State.storeBytes_pc (a : Nat) (bs : List Byte) (s : State) : (s.storeBytes a bs).pc = s.pc := rfl
@[simp] theorem State.storeBytes_i (a : Nat) (bs : List Byte) (s : State) : (s.storeBytes a bs).i = s.i := rfl
@[simp] theorem State.storeBytes_v (a : Nat) (bs : List Byte) (s : State) : (s.storeBytes a bs).v = s.v := rfl
@[simp] theorem State.storeBytes_stack (a : Nat) (bs : List Byte) (s : State) : (s.storeBytes a bs).stack = s.stack := rfl
@[simp] theorem State.storeBytes_dt (a : Nat) (bs : List Byte) (s : State) : (s.storeBytes a bs).dt = s.dt := rfl
@[simp] theorem State.storeBytes_st (a : Nat) (bs : List Byte) (s : State) : (s.storeBytes a bs).st = s.st := rfl
@[simp] theorem State.storeBytes_fb (a : Nat) (bs : List Byte) (s : State) : (s.storeBytes a bs).fb = s.fb := rfl
@[simp] theorem State.storeBytes_rng (a : Nat) (bs : List Byte) (s : State) : (s.storeBytes a bs).rng = s.rng := rfl
@[simp] theorem State.storeBytes_q (a : Nat) (bs : List Byte) (s : State) : (s.storeBytes a bs).q = s.q := rfl
@[simp] theorem State.storeBytes_fault (a : Nat) (bs : List Byte) (s : State) : (s.storeBytes a bs).fault = s.fault := rfl
@[simp] theorem State.storeBytes_params (a : Nat) (bs : List Byte) (s : State) : (s.storeBytes a bs).params = s.params := rfl
@[simp] theorem State.storeBytes_pressed (a : Nat) (bs : List Byte) (s : State) : (s.storeBytes a bs).pressed = s.pressed := rfl
@[simp] theorem State.storeBytes_released (a : Nat) (bs : List Byte) (s : State) : (s.storeBytes a bs).released = s.released := rfl
@[simp] theorem State.storeBytes_changed (a : Nat) (bs : List Byte) (s : State) : (s.storeBytes a bs).changed = s.changed := rfl
@[simp] theorem State.storeBytes_events (a : Nat) (bs : List Byte) (s : State) : (s.storeBytes a bs).events = s.events := rfl
@[simp] theorem State.storeBytes_draws (a : Nat) (bs : List Byte) (s : State) : (s.storeBytes a bs).draws = s.draws := rfl

@[simp] theorem State.latch_mem (f : Fault) (s : State) : (s.latch f).mem = s.mem := rfl
@[simp] theorem State.latch_pc (f : Fault) (s : State) : (s.latch f).pc = s.pc := rfl
@[simp] theorem State.latch_i (f : Fault) (s : State) : (s.latch f).i = s.i := rfl
@[simp] theorem State.latch_v (f : Fault) (s : State) : (s.latch f).v = s.v := rfl
@[simp] theorem State.latch_stack (f : Fault) (s : State) : (s.latch f).stack = s.stack := rfl
@[simp] theorem State.latch_dt (f : Fault) (s : State) : (s.latch f).dt = s.dt := rfl
@[simp] theorem State.latch_st (f : Fault) (s : State) : (s.latch f).st = s.st := rfl
@[simp] theorem State.latch_fb (f : Fault) (s : State) : (s.latch f).fb = s.fb := rfl
@[simp] theorem State.latch_rng (f : Fault) (s : State) : (s.latch f).rng = s.rng := rfl
@[simp] theorem State.latch_q (f : Fault) (s : State) : (s.latch f).q = s.q := rfl
@[simp] theorem State.latch_fault (f : Fault) (s : State) : (s.latch f).fault = some f := rfl
@[simp] theorem State.latch_params (f : Fault) (s : State) : (s.latch f).params = s.params := rfl
@[simp] theorem State.latch_pressed (f : Fault) (s : State) : (s.latch f).pressed = s.pressed := rfl
@[simp] theorem State.latch_released (f : Fault) (s : State) : (s.latch f).released = s.released := rfl
@[simp] theorem State.latch_changed (f : Fault) (s : State) : (s.latch f).changed = none := rfl
@[simp] theorem State.latch_events (f : Fault) (s : State) : (s.latch f).events = s.events := rfl
@[simp] theorem State.latch_draws (f : Fault) (s : State) : (s.latch f).draws = s.draws := rfl

@[simp] theorem State.sampleKeys_mem (p r : BitVec 16) (s : State) : (s.sampleKeys p r).mem = s.mem := rfl
@[simp] theorem State.sampleKeys_pc (p r : BitVec 16) (s : State) : (s.sampleKeys p r).pc = s.pc := rfl
@[simp] theorem State.sampleKeys_i (p r : BitVec 16) (s : State) : (s.sampleKeys p r).i = s.i := rfl
@[simp] theorem State.sampleKeys_v (p r : BitVec 16) (s : State) : (s.sampleKeys p r).v = s.v := rfl
@[simp] theorem State.sampleKeys_stack (p r : BitVec 16) (s : State) : (s.sampleKeys p r).stack = s.stack := rfl
@[simp] theorem State.sampleKeys_dt (p r : BitVec 16) (s : State) : (s.sampleKeys p r).dt = s.dt := rfl
@[simp] theorem State.sampleKeys_st (p r : BitVec 16) (s : State) : (s.sampleKeys p r).st = s.st := rfl
@[simp] theorem State.sampleKeys_fb (p r : BitVec 16) (s : State) : (s.sampleKeys p r).fb = s.fb := rfl
@[simp] theorem State.sampleKeys_rng (p r : BitVec 16) (s : State) : (s.sampleKeys p r).rng = s.rng := rfl
@[simp] theorem State.sampleKeys_q (p r : BitVec 16) (s : State) : (s.sampleKeys p r).q = s.q := rfl
@[simp] theorem State.sampleKeys_fault (p r : BitVec 16) (s : State) : (s.sampleKeys p r).fault = s.fault := rfl
@[simp] theorem State.sampleKeys_params (p r : BitVec 16) (s : State) : (s.sampleKeys p r).params = s.params := rfl
@[simp] theorem State.sampleKeys_pressed (p r : BitVec 16) (s : State) : (s.sampleKeys p r).pressed = p := rfl
@[simp] theorem State.sampleKeys_released (p r : BitVec 16) (s : State) : (s.sampleKeys p r).released = r := rfl
@[simp] theorem State.sampleKeys_changed (p r : BitVec 16) (s : State) : (s.sampleKeys p r).changed = s.changed := rfl
@[simp] theorem State.sampleKeys_events (p r : BitVec 16) (s : State) : (s.sampleKeys p r).events = s.events := rfl
@[simp] theorem State.sampleKeys_draws (p r : BitVec 16) (s : State) : (s.sampleKeys p r).draws = s.draws := rfl

@[simp] theorem State.enterInstr_mem (p r : BitVec 16) (s : State) : (s.enterInstr p r).mem = s.mem := rfl
@[simp] theorem State.enterInstr_pc (p r : BitVec 16) (s : State) : (s.enterInstr p r).pc = s.pc + 2 := rfl
@[simp] theorem State.enterInstr_i (p r : BitVec 16) (s : State) : (s.enterInstr p r).i = s.i := rfl
@[simp] theorem State.enterInstr_v (p r : BitVec 16) (s : State) : (s.enterInstr p r).v = s.v := rfl
@[simp] theorem State.enterInstr_stack (p r : BitVec 16) (s : State) : (s.enterInstr p r).stack = s.stack := rfl
@[simp] theorem State.enterInstr_dt (p r : BitVec 16) (s : State) : (s.enterInstr p r).dt = s.dt := rfl
@[simp] theorem State.enterInstr_st (p r : BitVec 16) (s : State) : (s.enterInstr p r).st = s.st := rfl
@[simp] theorem State.enterInstr_fb (p r : BitVec 16) (s : State) : (s.enterInstr p r).fb = s.fb := rfl
@[simp] theorem State.enterInstr_rng (p r : BitVec 16) (s : State) : (s.enterInstr p r).rng = s.rng := rfl
@[simp] theorem State.enterInstr_q (p r : BitVec 16) (s : State) : (s.enterInstr p r).q = s.q := rfl
@[simp] theorem State.enterInstr_fault (p r : BitVec 16) (s : State) : (s.enterInstr p r).fault = s.fault := rfl
@[simp] theorem State.enterInstr_params (p r : BitVec 16) (s : State) : (s.enterInstr p r).params = s.params := rfl
@[simp] theorem State.enterInstr_pressed (p r : BitVec 16) (s : State) : (s.enterInstr p r).pressed = p := rfl
@[simp] theorem State.enterInstr_released (p r : BitVec 16) (s : State) : (s.enterInstr p r).released = r := rfl
@[simp] theorem State.enterInstr_changed (p r : BitVec 16) (s : State) : (s.enterInstr p r).changed = some false := rfl
@[simp] theorem State.enterInstr_events (p r : BitVec 16) (s : State) : (s.enterInstr p r).events = s.events := rfl
@[simp] theorem State.enterInstr_draws (p r : BitVec 16) (s : State) : (s.enterInstr p r).draws = s.draws := rfl

@[simp] theorem State.tick_mem (s : State) : (s.tick).mem = s.mem := rfl
@[simp] theorem State.tick_pc (s : State) : (s.tick).pc = s.pc := rfl
@[simp] theorem State.tick_i (s : State) : (s.tick).i = s.i := rfl
@[simp] theorem State.tick_v (s : State) : (s.tick).v = s.v := rfl
@[simp] theorem State.tick_stack (s : State) : (s.tick).stack = s.stack := rfl
@[simp] theorem State.tick_dt (s : State) : (s.tick).dt = if s.dt = 0 then 0 else s.dt - 1 := rfl
@[simp] theorem State.tick_st (s : State) : (s.tick).st = if s.st = 0 then 0 else s.st - 1 := rfl
@[simp] theorem State.tick_fb (s : State) : (s.tick).fb = s.fb := rfl
@[simp] theorem State.tick_rng (s : State) : (s.tick).rng = s.rng := rfl
@[simp] theorem State.tick_q (s : State) : (s.tick).q = s.q := rfl
@[simp] theorem State.tick_fault (s : State) : (s.tick).fault = s.fault := rfl
@[simp] theorem State.tick_params (s : State) : (s.tick).params = s.params := rfl
@[simp] theorem State.tick_pressed (s : State) : (s.tick).pressed = s.pressed := rfl
@[simp] theorem State.tick_released (s : State) : (s.tick).released = s.released := rfl
@[simp] theorem State.tick_changed (s : State) : (s.tick).changed = s.changed := rfl
@[simp] theorem State.tick_events (s : State) : (s.tick).events = s.events := rfl
@[simp] theorem State.tick_draws (s : State) : (s.tick).draws = s.draws := rfl

@[simp] theorem State.takeEvent_mem (s : State) : (s.takeEvent).mem = s.mem := rfl
@[simp] theorem State.takeEvent_pc (s : State) : (s.takeEvent).pc = s.pc := rfl
@[simp] theorem State.takeEvent_i (s : State) : (s.takeEvent).i = s.i := rfl
@[simp] theorem State.takeEvent_v (s : State) : (s.takeEvent).v = s.v := rfl
@[simp] theorem State.takeEvent_stack (s : State) : (s.takeEvent).stack = s.stack := rfl
@[simp] theorem State.takeEvent_dt (s : State) : (s.takeEvent).dt = s.dt := rfl
@[simp] theorem State.takeEvent_st (s : State) : (s.takeEvent).st = s.st := rfl
@[simp] theorem State.takeEvent_fb (s : State) : (s.takeEvent).fb = s.fb := rfl
@[simp] theorem State.takeEvent_rng (s : State) : (s.takeEvent).rng = s.rng := rfl
@[simp] theorem State.takeEvent_q (s : State) : (s.takeEvent).q = s.q := rfl
@[simp] theorem State.takeEvent_fault (s : State) : (s.takeEvent).fault = s.fault := rfl
@[simp] theorem State.takeEvent_params (s : State) : (s.takeEvent).params = s.params := rfl
@[simp] theorem State.takeEvent_pressed (s : State) : (s.takeEvent).pressed = s.pressed := rfl
@[simp] theorem State.takeEvent_released (s : State) : (s.takeEvent).released = s.released := rfl
@[simp] theorem State.takeEvent_changed (s : State) : (s.takeEvent).changed = s.changed := rfl
@[simp] theorem State.takeEvent_events (s : State) : (s.takeEvent).events = s.events.tail := rfl
@[simp] theorem State.takeEvent_draws (s : State) : (s.takeEvent).draws = s.draws + 1 := rfl

/-- Reading a register after a register write. -/
@[simp] theorem State.setReg_reg (k : Reg) (b : Byte) (s : State) (j : Reg) :
    (s.setReg k b).reg j = if k = j then b else s.reg j := by
  simp [State.reg, State.setReg, Vector.getElem_set, Fin.ext_iff]

/-- Reading a register sees the register file only. -/
theorem State.reg_of_v {s t : State} (h : t.v = s.v) (k : Reg) : t.reg k = s.reg k := by simp [State.reg, h]

@[simp] theorem State.setPc_reg (a : Word) (s : State) (j : Reg) : (s.setPc a).reg j = s.reg j := rfl
@[simp] theorem State.setI_reg (a : Word) (s : State) (j : Reg) : (s.setI a).reg j = s.reg j := rfl
@[simp] theorem State.setMem_reg (m : Memory) (s : State) (j : Reg) : (s.setMem m).reg j = s.reg j := rfl
@[simp] theorem State.setStack_reg (k : List Word) (s : State) (j : Reg) : (s.setStack k).reg j = s.reg j := rfl
@[simp] theorem State.setDt_reg (b : Byte) (s : State) (j : Reg) : (s.setDt b).reg j = s.reg j := rfl
@[simp] theorem State.setSt_reg (b : Byte) (s : State) (j : Reg) : (s.setSt b).reg j = s.reg j := rfl
@[simp] theorem State.setFb_reg (f : Screen) (s : State) (j : Reg) : (s.setFb f).reg j = s.reg j := rfl
@[simp] theorem State.setRng_reg (r : RngWord) (s : State) (j : Reg) : (s.setRng r).reg j = s.reg j := rfl
@[simp] theorem State.setChanged_reg (c : Option Bool) (s : State) (j : Reg) : (s.setChanged c).reg j = s.reg j := rfl
@[simp] theorem State.push_reg (e : Word) (s : State) (j : Reg) : (s.push e).reg j = s.reg j := rfl
@[simp] theorem State.storeBytes_reg (a : Nat) (bs : List Byte) (s : State) (j : Reg) : (s.storeBytes a bs).reg j = s.reg j := rfl
@[simp] theorem State.latch_reg (f : Fault) (s : State) (j : Reg) : (s.latch f).reg j = s.reg j := rfl
@[simp] theorem State.sampleKeys_reg (p r : BitVec 16) (s : State) (j : Reg) : (s.sampleKeys p r).reg j = s.reg j := rfl
@[simp] theorem State.enterInstr_reg (p r : BitVec 16) (s : State) (j : Reg) : (s.enterInstr p r).reg j = s.reg j := rfl
@[simp] theorem State.tick_reg (s : State) (j : Reg) : (s.tick).reg j = s.reg j := rfl
@[simp] theorem State.takeEvent_reg (s : State) (j : Reg) : (s.takeEvent).reg j = s.reg j := rfl

@[simp] theorem State.setV_reg (w : Vector Byte 16) (s : State) (j : Reg) : (s.setV w).reg j = w[j] := rfl

end Sys2Proof.Machine
end

