-- ==== Sys2Proof/Laws/Display.lean ====
section
/-! SUPPORT. The framebuffer: the toggle keeps the canonical form and flips one cell; what the rasterizer's loops do. -/

namespace Sys2Proof.Machine

@[simp] theorem Screen.isOn_nil (c : Nat) : Screen.isOn [] c = false := rfl

@[simp] theorem Screen.isOn_cons (d : Nat) (f : Screen) (c : Nat) :
    Screen.isOn (d :: f) c = (decide (c = d) || Screen.isOn f c) := by
  simp [Screen.isOn]

@[simp] theorem Screen.wfFrom_nil (size lo : Nat) : Screen.wfFrom size lo [] = true := rfl

@[simp] theorem Screen.wfFrom_cons (size lo c : Nat) (f : Screen) :
    Screen.wfFrom size lo (c :: f) = true ↔ lo ≤ c ∧ c < size ∧ Screen.wfFrom size (c + 1) f = true := by
  simp [Screen.wfFrom, and_assoc]

/-- The blank screen has the canonical form. -/
theorem Screen.wf_nil (p : Params) : Screen.wf p [] = true := rfl

theorem Screen.wfFrom_mono {size lo lo' : Nat} (h : lo' ≤ lo) :
    ∀ {f : Screen}, Screen.wfFrom size lo f = true → Screen.wfFrom size lo' f = true
  | [], _ => rfl
  | c :: f, hf => by
    simp only [Screen.wfFrom_cons] at hf ⊢
    exact ⟨h.trans hf.1, hf.2⟩

theorem Screen.isOn_below {size lo c : Nat} (h : c < lo) :
    ∀ {f : Screen}, Screen.wfFrom size lo f = true → f.isOn c = false
  | [], _ => rfl
  | d :: f, hf => by
    simp only [Screen.wfFrom_cons] at hf
    rw [Screen.isOn_cons, Screen.isOn_below (lo := d + 1) (by omega) hf.2.2]
    simp; omega

theorem Screen.toggle_wfFrom {size c : Nat} (hc : c < size) :
    ∀ {lo : Nat} {f : Screen}, lo ≤ c → Screen.wfFrom size lo f = true → Screen.wfFrom size lo (f.toggle c) = true
  | lo, [], hlo, _ => by simp [Screen.toggle, hlo, hc]
  | lo, d :: f, hlo, hf => by
    simp only [Screen.wfFrom_cons] at hf
    unfold Screen.toggle
    split
    · simp only [Screen.wfFrom_cons]
      exact ⟨hlo, hc, by omega, hf.2⟩
    · split
      · exact Screen.wfFrom_mono (by omega) hf.2.2
      · simp only [Screen.wfFrom_cons]
        exact ⟨hf.1, hf.2.1, Screen.toggle_wfFrom hc (by omega) hf.2.2⟩

/-- The toggle of a cell on the screen keeps the canonical form. -/
theorem Screen.toggle_wf {p : Params} {f : Screen} (hf : f.wf p = true) {c : Nat} (hc : c < p.width * p.height) :
    (f.toggle c).wf p = true := Screen.toggle_wfFrom hc (Nat.zero_le c) hf

theorem Screen.isOn_toggle_from {size : Nat} (c c' : Nat) :
    ∀ {lo : Nat} {f : Screen}, Screen.wfFrom size lo f = true →
      (f.toggle c).isOn c' = (f.isOn c' ^^ decide (c' = c))
  | _, [], _ => by simp [Screen.toggle]
  | lo, d :: f, hf => by
    simp only [Screen.wfFrom_cons] at hf
    unfold Screen.toggle
    split
    · rename_i h
      have : Screen.isOn f c = false := Screen.isOn_below (lo := d + 1) (by omega) hf.2.2
      by_cases hc : c' = c
      · subst hc
        simp [this]; omega
      · simp [hc]
    · split
      · rename_i h
        subst h
        have : Screen.isOn f c = false := Screen.isOn_below (lo := c + 1) (by omega) hf.2.2
        by_cases hc : c' = c
        · subst hc; simp [this]
        · simp [hc]
      · rename_i h1 h2
        rw [Screen.isOn_cons, Screen.isOn_cons, Screen.isOn_toggle_from c c' hf.2.2]
        by_cases hc : c' = c
        · subst hc
          rw [decide_eq_false h2, Bool.false_or, Bool.false_or]
        · simp [hc]

/-- The toggle flips its own cell and no other. -/
theorem Screen.isOn_toggle {p : Params} {f : Screen} (hf : f.wf p = true) (c c' : Nat) :
    (f.toggle c).isOn c' = (f.isOn c' ^^ decide (c' = c)) := Screen.isOn_toggle_from c c' hf

theorem Screen.ext_from {size : Nat} : ∀ {lo : Nat} {f f' : Screen}, Screen.wfFrom size lo f = true →
    Screen.wfFrom size lo f' = true → (∀ c, f.isOn c = f'.isOn c) → f = f'
  | _, [], [], _, _, _ => rfl
  | _, [], d :: f', _, _, h => by simpa using h d
  | _, d :: f, [], _, _, h => by simpa using h d
  | _, d :: f, d' :: f', hf, hf', h => by
    simp only [Screen.wfFrom_cons] at hf hf'
    have hd : d = d' := by
      rcases lt_trichotomy d d' with hlt | heq | hgt
      · have := h d
        rw [Screen.isOn_cons, Screen.isOn_cons, Screen.isOn_below (lo := d' + 1) (c := d) (by omega) hf'.2.2] at this
        simp at this; omega
      · exact heq
      · have := h d'
        rw [Screen.isOn_cons, Screen.isOn_cons, Screen.isOn_below (lo := d + 1) (c := d') (by omega) hf.2.2] at this
        simp at this; omega
    subst hd
    rw [Screen.ext_from hf.2.2 hf'.2.2 fun c => ?_]
    by_cases hc : c < d + 1
    · rw [Screen.isOn_below hc hf.2.2, Screen.isOn_below hc hf'.2.2]
    · have := h c
      rwa [Screen.isOn_cons, Screen.isOn_cons, decide_eq_false (by omega), Bool.false_or, Bool.false_or] at this

/-- Canonical framebuffers with the same cells on are equal. -/
theorem Screen.ext {p : Params} {f f' : Screen} (hf : f.wf p = true) (hf' : f'.wf p = true)
    (h : ∀ c, f.isOn c = f'.isOn c) : f = f' := Screen.ext_from hf hf' h

theorem cellAt_lt {p : Params} {cx cy : Nat} (hx : cx < p.width) (hy : cy < p.height) :
    cellAt p cx cy < p.width * p.height := by
  unfold cellAt
  calc cy * p.width + cx < cy * p.width + p.width := by omega
    _ = p.width * (cy + 1) := by ring
    _ ≤ p.width * p.height := Nat.mul_le_mul_left _ hy

theorem cellAt_inj {p : Params} {cx cy dx dy : Nat} (hx : cx < p.width) (hd : dx < p.width)
    (h : cellAt p cx cy = cellAt p dx dy) : cx = dx ∧ cy = dy := by
  unfold cellAt at h
  have hm := congrArg (· % p.width) h
  have hq := congrArg (· / p.width) h
  simp only [Nat.mul_add_mod_self_right, Nat.mod_eq_of_lt hx, Nat.mod_eq_of_lt hd] at hm
  have hw : 0 < p.width := by omega
  simp only [Nat.mul_comm _ p.width, Nat.mul_add_div hw, Nat.div_eq_of_lt hx, Nat.div_eq_of_lt hd] at hq
  omega

/-- From `a` to `b` exactly the cells of `D` flip, the hit becomes whether one of them was on, and the framebuffer stays
canonical. -/
structure Paints (p : Params) (D : Nat → Prop) (a b : Canvas) : Prop where
  flips : ∀ c, D c → b.fb.isOn c = !a.fb.isOn c
  keeps : ∀ c, ¬ D c → b.fb.isOn c = a.fb.isOn c
  hit : b.hit = true ↔ a.hit = true ∨ ∃ c, D c ∧ a.fb.isOn c = true
  wf : b.fb.wf p = true

theorem Paints.nothing {p : Params} {D : Nat → Prop} {a : Canvas} (ha : a.fb.wf p = true) (hD : ∀ c, ¬ D c) :
    Paints p D a a where
  flips c h := absurd h (hD c)
  keeps _ _ := rfl
  hit := by simp [hD]
  wf := ha

theorem Paints.plot {p : Params} {a : Canvas} {c : Nat} (ha : a.fb.wf p = true) (hc : c < p.width * p.height) :
    Paints p (· = c) a (a.plot c) where
  flips d h := by
    subst h
    simp [Canvas.plot, Screen.isOn_toggle ha]
  keeps d h := by simp [Canvas.plot, Screen.isOn_toggle ha, h]
  hit := by simp [Canvas.plot]
  wf := Screen.toggle_wf ha hc

/-- Painting one set of cells and then another that shares none with it paints both. -/
theorem Paints.trans {p : Params} {D E F : Nat → Prop} {a b c : Canvas} (h : Paints p D a b) (h' : Paints p E b c)
    (hdis : ∀ k, D k → ¬ E k) (hF : ∀ k, F k ↔ D k ∨ E k) : Paints p F a c where
  flips k hk := by
    rcases (hF k).1 hk with hd | he
    · rw [h'.keeps k (hdis k hd), h.flips k hd]
    · rw [h'.flips k he, h.keeps k fun hd => hdis k hd he]
  keeps k hk := by
    rw [hF, not_or] at hk
    rw [h'.keeps k hk.2, h.keeps k hk.1]
  hit := by
    rw [h'.hit, h.hit, or_assoc]
    refine or_congr_right ⟨?_, ?_⟩
    · rintro (⟨k, hk, hon⟩ | ⟨k, hk, hon⟩)
      · exact ⟨k, (hF k).2 (.inl hk), hon⟩
      · exact ⟨k, (hF k).2 (.inr hk), by rwa [h.keeps k fun hd => hdis k hd hk] at hon⟩
    · rintro ⟨k, hk, hon⟩
      rcases (hF k).1 hk with hd | he
      · exact .inl ⟨k, hd, hon⟩
      · exact .inr ⟨k, he, by rwa [h.keeps k fun hd => hdis k hd he]⟩
  wf := h'.wf

/-- The cells of columns `c0` on, `m` of them, under set bits of a row's byte and left of the right edge. -/
def rowCells (p : Params) (x0 cy : Nat) (b : Byte) (c0 m : Nat) (k : Nat) : Prop :=
  ∃ c, c0 ≤ c ∧ c < c0 + m ∧ x0 + c < p.width ∧ b.getLsbD (7 - c) = true ∧ k = cellAt p (x0 + c) cy

/-- One sprite row paints the cells under its set bits up to the right edge. -/
theorem drawColumns_paints {p : Params} {x0 cy : Nat} (b : Byte) (hy : cy < p.height) :
    ∀ {m c0 : Nat} {cv : Canvas}, cv.fb.wf p = true →
      Paints p (rowCells p x0 cy b c0 m) cv (drawColumns p x0 cy b cv (List.range' c0 m))
  | 0, c0, cv, h => Paints.nothing h fun k ⟨c, h1, h2, _⟩ => by omega
  | m + 1, c0, cv, h => by
    rw [List.range'_succ, drawColumns]
    split
    · exact Paints.nothing h fun k ⟨c, h1, _, h3, _⟩ => by omega
    · rename_i hw
      have hw' : x0 + c0 < p.width := by omega
      cases hb : b.getLsbD (7 - c0)
      · refine (Paints.nothing (D := fun _ => False) h fun _ => id).trans (drawColumns_paints b hy h)
          (fun _ hk => hk.elim) fun k => ?_
        simp only [false_or]
        constructor
        · rintro ⟨c, h1, h2, h3, h4, h5⟩
          rcases eq_or_lt_of_le h1 with rfl | h1
          · rw [hb] at h4; cases h4
          · exact ⟨c, h1, by omega, h3, h4, h5⟩
        · rintro ⟨c, h1, h2, h3, h4, h5⟩
          exact ⟨c, by omega, by omega, h3, h4, h5⟩
      · have hp := Paints.plot h (cellAt_lt hw' hy)
        refine hp.trans (drawColumns_paints b hy hp.wf) ?_ fun k => ?_
        · rintro k rfl ⟨c, h1, h2, h3, h4, h5⟩
          have := (cellAt_inj hw' h3 h5).1
          omega
        · constructor
          · rintro ⟨c, h1, h2, h3, h4, h5⟩
            rcases eq_or_lt_of_le h1 with rfl | h1
            · exact .inl h5
            · exact .inr ⟨c, h1, by omega, h3, h4, h5⟩
          · rintro (rfl | ⟨c, h1, h2, h3, h4, h5⟩)
            · exact ⟨c0, le_rfl, by omega, hw', hb, rfl⟩
            · exact ⟨c, by omega, by omega, h3, h4, h5⟩

/-- The cells under set bits of the rows `bs` from row `cy` down, left of the right edge. -/
def spriteCells (p : Params) (x0 cy : Nat) (bs : List Byte) (k : Nat) : Prop :=
  ∃ r, r < bs.length ∧ rowCells p x0 (cy + r) (bs.getD r 0) 0 8 k

/-- The rasterizer paints the cells under the sprite's set bits, each once. -/
theorem drawRows_paints {p : Params} {x0 : Nat} : ∀ {bs : List Byte} {cy : Nat} {cv : Canvas}, cv.fb.wf p = true →
    cy + bs.length ≤ p.height → Paints p (spriteCells p x0 cy bs) cv (drawRows p x0 cy cv bs)
  | [], _, _, h, _ => Paints.nothing h fun _ ⟨_, hr, _⟩ => absurd hr (Nat.not_lt_zero _)
  | b :: bs, cy, cv, h, hl => by
    rw [List.length_cons] at hl
    have hrow := drawColumns_paints (x0 := x0) b (show cy < p.height by omega) (m := 8) (c0 := 0) h
    rw [drawRows, List.range_eq_range']
    refine hrow.trans (drawRows_paints hrow.wf (by omega)) ?_ fun k => ?_
    · rintro k ⟨c, _, _, h3, _, h5⟩ ⟨r, _, d, _, _, h3', _, h5'⟩
      have := (cellAt_inj h3 h3' (h5.symm.trans h5')).2
      omega
    · constructor
      · rintro ⟨r, hr, hk⟩
        cases r with
        | zero => exact .inl hk
        | succ r =>
          refine .inr ⟨r, by simpa using hr, ?_⟩
          rw [List.getD_cons_succ] at hk
          rwa [show cy + 1 + r = cy + (r + 1) by omega]
      · rintro (hk | ⟨r, hr, hk⟩)
        · exact ⟨0, by simp, hk⟩
        · refine ⟨r + 1, by simpa using hr, ?_⟩
          rw [List.getD_cons_succ]
          rwa [show cy + (r + 1) = cy + 1 + r by omega]

end Sys2Proof.Machine
end

