-- ==== Sys2Proof/Laws/Memory.lean ====
section
/-! SUPPORT. Memory: every operation keeps the canonical form, a read after a write, and the canonical form is one. -/

namespace Sys2Proof.Machine

@[simp] theorem Memory.read_nil (a : Nat) : Memory.read [] a = Memory.resetByte a := rfl

@[simp] theorem Memory.read_cons (c : Nat) (b : Byte) (m : Memory) (a : Nat) :
    Memory.read ((c, b) :: m) a = if c = a then b else Memory.read m a := rfl

@[simp] theorem Memory.wfFrom_nil (lo : Nat) : Memory.wfFrom lo [] = true := rfl

@[simp] theorem Memory.wfFrom_cons (lo a : Nat) (b : Byte) (m : Memory) :
    Memory.wfFrom lo ((a, b) :: m) = true ↔
      lo ≤ a ∧ a < memSize ∧ b ≠ Memory.resetByte a ∧ Memory.wfFrom (a + 1) m = true := by
  simp [Memory.wfFrom, and_assoc]

/-- Reset memory has the canonical form. -/
theorem Memory.wf_nil : Memory.wf [] = true := rfl

theorem reset_mem_wf : State.reset.mem.wf = true := rfl

theorem Memory.wfFrom_mono {lo lo' : Nat} (h : lo' ≤ lo) :
    ∀ {m : Memory}, Memory.wfFrom lo m = true → Memory.wfFrom lo' m = true
  | [], _ => rfl
  | (a, b) :: m, hm => by
    simp only [Memory.wfFrom_cons] at hm ⊢
    exact ⟨h.trans hm.1, hm.2⟩

/-- Below its first possible address a canonical memory lists nothing. -/
theorem Memory.read_below {lo a : Nat} (h : a < lo) :
    ∀ {m : Memory}, Memory.wfFrom lo m = true → m.read a = Memory.resetByte a
  | [], _ => rfl
  | (c, b) :: m, hm => by
    simp only [Memory.wfFrom_cons] at hm
    rw [Memory.read_cons, if_neg (by omega)]
    exact Memory.read_below (Nat.lt_succ_of_lt (h.trans_le hm.1)) hm.2.2.2

theorem Memory.read_consCell {lo a : Nat} {m : Memory} (h : a < lo) (hm : Memory.wfFrom lo m = true) (b : Byte)
    (a' : Nat) : (Memory.consCell a b m).read a' = if a' = a then b else m.read a' := by
  unfold Memory.consCell
  split
  · rename_i hb
    split
    · rename_i ha
      rw [ha, Memory.read_below h hm, hb]
    · rfl
  · simp only [Memory.read_cons, eq_comm]

theorem Memory.consCell_wfFrom {lo a : Nat} {m : Memory} (hlo : lo ≤ a) (ha : a < memSize)
    (hm : Memory.wfFrom (a + 1) m = true) (b : Byte) : Memory.wfFrom lo (Memory.consCell a b m) = true := by
  unfold Memory.consCell
  split
  · exact Memory.wfFrom_mono (by omega) hm
  · rename_i hb
    simp [hlo, ha, hb, hm]

theorem Memory.write_wfFrom {a : Nat} (ha : a < memSize) (b : Byte) :
    ∀ {lo : Nat} {m : Memory}, lo ≤ a → Memory.wfFrom lo m = true → Memory.wfFrom lo (m.write a b) = true
  | lo, [], hlo, _ => Memory.consCell_wfFrom hlo ha rfl b
  | lo, (c, d) :: m, hlo, hm => by
    simp only [Memory.wfFrom_cons] at hm
    unfold Memory.write
    split
    · refine Memory.consCell_wfFrom hlo ha ?_ b
      simp only [Memory.wfFrom_cons]
      exact ⟨by omega, hm.2⟩
    · split
      · rename_i h
        subst h
        exact Memory.consCell_wfFrom hlo ha hm.2.2.2 b
      · simp only [Memory.wfFrom_cons]
        exact ⟨hm.1, hm.2.1, hm.2.2.1, Memory.write_wfFrom ha b (by omega) hm.2.2.2⟩

/-- Storing a byte keeps the canonical form. -/
theorem Memory.write_wf {m : Memory} (hm : m.wf = true) {a : Nat} (ha : a < memSize) (b : Byte) :
    (m.write a b).wf = true := Memory.write_wfFrom ha b (Nat.zero_le a) hm

theorem Memory.read_write_from (a : Nat) (b : Byte) (a' : Nat) :
    ∀ {lo : Nat} {m : Memory}, Memory.wfFrom lo m = true →
      (m.write a b).read a' = if a' = a then b else m.read a'
  | _, [], _ => Memory.read_consCell (lo := a + 1) (by omega) rfl b a'
  | lo, (c, d) :: m, hm => by
    simp only [Memory.wfFrom_cons] at hm
    unfold Memory.write
    split
    · rename_i h
      refine Memory.read_consCell (lo := c) h ?_ b a'
      simp only [Memory.wfFrom_cons]
      exact ⟨le_rfl, hm.2⟩
    · split
      · rename_i h
        subst h
        rw [Memory.read_consCell (lo := a + 1) (by omega) hm.2.2.2, Memory.read_cons]
        split
        · rfl
        · rw [if_neg (by omega)]
      · rename_i h1 h2
        rw [Memory.read_cons, Memory.read_cons, Memory.read_write_from a b a' hm.2.2.2]
        by_cases hc : c = a'
        · rw [if_pos hc, if_pos hc, if_neg (by omega)]
        · rw [if_neg hc, if_neg hc]

/-- A read after a write: the byte written at its own address, what was there elsewhere. -/
theorem Memory.read_write {m : Memory} (hm : m.wf = true) (a : Nat) (b : Byte) (a' : Nat) :
    (m.write a b).read a' = if a' = a then b else m.read a' := Memory.read_write_from a b a' hm

/-- Storing bytes inside the address space keeps the canonical form. -/
theorem Memory.writeBytes_wf : ∀ {bs : List Byte} {m : Memory} {a : Nat}, m.wf = true → a + bs.length ≤ memSize →
    (m.writeBytes a bs).wf = true
  | [], _, _, hm, _ => hm
  | b :: bs, m, a, hm, ha => by
    rw [List.length_cons] at ha
    exact Memory.writeBytes_wf (bs := bs) (a := a + 1) (Memory.write_wf hm (a := a) (by omega) b) (by omega)

/-- A read after storing bytes: the byte stored at its offset, what was there outside them. -/
theorem Memory.read_writeBytes : ∀ {bs : List Byte} {m : Memory} {a : Nat}, m.wf = true → a + bs.length ≤ memSize →
    ∀ a', (m.writeBytes a bs).read a' = if a ≤ a' ∧ a' < a + bs.length then bs.getD (a' - a) 0 else m.read a'
  | [], _, a, _, _, a' => by
    rw [if_neg (by simp)]; rfl
  | b :: bs, m, a, hm, ha, a' => by
    rw [List.length_cons] at ha ⊢
    have ih := Memory.read_writeBytes (bs := bs) (Memory.write_wf hm (a := a) (by omega) b)
      (a := a + 1) (by omega) a'
    rw [Memory.writeBytes, ih, Memory.read_write hm]
    by_cases h1 : a + 1 ≤ a' ∧ a' < a + 1 + bs.length
    · rw [if_pos h1, if_pos ⟨by omega, by omega⟩, show a' - a = (a' - (a + 1)) + 1 by omega, List.getD_cons_succ]
    · rw [if_neg h1]
      by_cases h2 : a' = a
      · subst h2
        rw [if_pos rfl, if_pos ⟨le_rfl, by omega⟩, Nat.sub_self, List.getD_cons_zero]
      · rw [if_neg h2, if_neg (by omega)]

/-- A byte stored by `writeBytes`, by its offset. -/
theorem Memory.read_writeBytes_at {bs : List Byte} {m : Memory} {a : Nat} (hm : m.wf = true)
    (ha : a + bs.length ≤ memSize) {k : Nat} (hk : k < bs.length) :
    (m.writeBytes a bs).read (a + k) = bs.getD k 0 := by
  rw [Memory.read_writeBytes hm ha, if_pos ⟨by omega, by omega⟩, Nat.add_sub_cancel_left]

/-- A byte outside those stored by `writeBytes`. -/
theorem Memory.read_writeBytes_outside {bs : List Byte} {m : Memory} {a a' : Nat} (hm : m.wf = true)
    (ha : a + bs.length ≤ memSize) (h : ¬ (a ≤ a' ∧ a' < a + bs.length)) :
    (m.writeBytes a bs).read a' = m.read a' := by
  rw [Memory.read_writeBytes hm ha, if_neg h]

theorem Memory.ext_from : ∀ {lo : Nat} {m m' : Memory}, Memory.wfFrom lo m = true → Memory.wfFrom lo m' = true →
    (∀ a, m.read a = m'.read a) → m = m'
  | _, [], [], _, _, _ => rfl
  | _, [], (c, b) :: m', _, h', h => by
    simp only [Memory.wfFrom_cons] at h'
    exact absurd ((h c).symm.trans (Memory.read_nil c)) (by simpa using h'.2.2.1)
  | _, (c, b) :: m, [], h', _, h => by
    simp only [Memory.wfFrom_cons] at h'
    exact absurd ((h c).trans (Memory.read_nil c)) (by simpa using h'.2.2.1)
  | _, (c, b) :: m, (c', b') :: m', hm, hm', h => by
    simp only [Memory.wfFrom_cons] at hm hm'
    have hc : c = c' := by
      rcases lt_trichotomy c c' with hlt | heq | hgt
      · have := h c
        rw [Memory.read_cons, if_pos rfl, Memory.read_cons, if_neg (by omega),
          Memory.read_below (by omega) hm'.2.2.2] at this
        exact absurd this hm.2.2.1
      · exact heq
      · have := h c'
        rw [Memory.read_cons, if_neg (by omega), Memory.read_cons, if_pos rfl,
          Memory.read_below (by omega) hm.2.2.2] at this
        exact absurd this.symm hm'.2.2.1
    subst hc
    have hb : b = b' := by simpa using h c
    subst hb
    rw [Memory.ext_from hm.2.2.2 hm'.2.2.2 fun a => ?_]
    by_cases ha : a < c + 1
    · rw [Memory.read_below ha hm.2.2.2, Memory.read_below ha hm'.2.2.2]
    · simpa [show c ≠ a by omega] using h a

/-- Canonical memories that read alike are equal. -/
theorem Memory.ext {m m' : Memory} (hm : m.wf = true) (hm' : m'.wf = true) (h : ∀ a, m.read a = m'.read a) :
    m = m' := Memory.ext_from hm hm' h

end Sys2Proof.Machine
end

