-- ==== Sys2Proof/Laws/Ops.lean ====
section
/-! SUPPORT. What the shared operations do, said once: the skip, the post-increment, the flag write, the blocks of fx55 and
fx65, the waited key, the range check, the fetch, the fault. -/

namespace Sys2Proof.Machine

/-! The skip, the post-increment and the flag write touch one component each. -/

@[simp] theorem State.skipIf_mem (c : Bool) (s : State) : (s.skipIf c).mem = s.mem := by cases c <;> rfl
@[simp] theorem State.skipIf_pc (c : Bool) (s : State) : (s.skipIf c).pc = if c then s.pc + 2 else s.pc := by
  cases c <;> rfl
@[simp] theorem State.skipIf_i (c : Bool) (s : State) : (s.skipIf c).i = s.i := by cases c <;> rfl
@[simp] theorem State.skipIf_v (c : Bool) (s : State) : (s.skipIf c).v = s.v := by cases c <;> rfl
@[simp] theorem State.skipIf_stack (c : Bool) (s : State) : (s.skipIf c).stack = s.stack := by cases c <;> rfl
@[simp] theorem State.skipIf_dt (c : Bool) (s : State) : (s.skipIf c).dt = s.dt := by cases c <;> rfl
@[simp] theorem State.skipIf_st (c : Bool) (s : State) : (s.skipIf c).st = s.st := by cases c <;> rfl
@[simp] theorem State.skipIf_fb (c : Bool) (s : State) : (s.skipIf c).fb = s.fb := by cases c <;> rfl
@[simp] theorem State.skipIf_rng (c : Bool) (s : State) : (s.skipIf c).rng = s.rng := by cases c <;> rfl
@[simp] theorem State.skipIf_q (c : Bool) (s : State) : (s.skipIf c).q = s.q := by cases c <;> rfl
@[simp] theorem State.skipIf_fault (c : Bool) (s : State) : (s.skipIf c).fault = s.fault := by cases c <;> rfl
@[simp] theorem State.skipIf_params (c : Bool) (s : State) : (s.skipIf c).params = s.params := by cases c <;> rfl
@[simp] theorem State.skipIf_pressed (c : Bool) (s : State) : (s.skipIf c).pressed = s.pressed := by cases c <;> rfl
@[simp] theorem State.skipIf_released (c : Bool) (s : State) : (s.skipIf c).released = s.released := by cases c <;> rfl
@[simp] theorem State.skipIf_changed (c : Bool) (s : State) : (s.skipIf c).changed = s.changed := by cases c <;> rfl
@[simp] theorem State.skipIf_events (c : Bool) (s : State) : (s.skipIf c).events = s.events := by cases c <;> rfl
@[simp] theorem State.skipIf_draws (c : Bool) (s : State) : (s.skipIf c).draws = s.draws := by cases c <;> rfl
@[simp] theorem State.skipIf_reg (c : Bool) (s : State) (k : Reg) : (s.skipIf c).reg k = s.reg k := by cases c <;> rfl

@[simp] theorem State.postIncrement_mem (x : Reg) (s : State) : (s.postIncrement x).mem = s.mem := by
  unfold State.postIncrement; split <;> rfl
@[simp] theorem State.postIncrement_pc (x : Reg) (s : State) : (s.postIncrement x).pc = s.pc := by
  unfold State.postIncrement; split <;> rfl
@[simp] theorem State.postIncrement_i (x : Reg) (s : State) :
    (s.postIncrement x).i = if s.q then s.i + BitVec.ofNat 16 (x.val + 1) else s.i := by
  unfold State.postIncrement; split <;> rfl
@[simp] theorem State.postIncrement_v (x : Reg) (s : State) : (s.postIncrement x).v = s.v := by
  unfold State.postIncrement; split <;> rfl
@[simp] theorem State.postIncrement_stack (x : Reg) (s : State) : (s.postIncrement x).stack = s.stack := by
  unfold State.postIncrement; split <;> rfl
@[simp] theorem State.postIncrement_dt (x : Reg) (s : State) : (s.postIncrement x).dt = s.dt := by
  unfold State.postIncrement; split <;> rfl
@[simp] theorem State.postIncrement_st (x : Reg) (s : State) : (s.postIncrement x).st = s.st := by
  unfold State.postIncrement; split <;> rfl
@[simp] theorem State.postIncrement_fb (x : Reg) (s : State) : (s.postIncrement x).fb = s.fb := by
  unfold State.postIncrement; split <;> rfl
@[simp] theorem State.postIncrement_rng (x : Reg) (s : State) : (s.postIncrement x).rng = s.rng := by
  unfold State.postIncrement; split <;> rfl
@[simp] theorem State.postIncrement_q (x : Reg) (s : State) : (s.postIncrement x).q = s.q := by
  unfold State.postIncrement; split <;> rfl
@[simp] theorem State.postIncrement_fault (x : Reg) (s : State) : (s.postIncrement x).fault = s.fault := by
  unfold State.postIncrement; split <;> rfl
@[simp] theorem State.postIncrement_params (x : Reg) (s : State) : (s.postIncrement x).params = s.params := by
  unfold State.postIncrement; split <;> rfl
@[simp] theorem State.postIncrement_pressed (x : Reg) (s : State) : (s.postIncrement x).pressed = s.pressed := by
  unfold State.postIncrement; split <;> rfl
@[simp] theorem State.postIncrement_released (x : Reg) (s : State) : (s.postIncrement x).released = s.released := by
  unfold State.postIncrement; split <;> rfl
@[simp] theorem State.postIncrement_changed (x : Reg) (s : State) : (s.postIncrement x).changed = s.changed := by
  unfold State.postIncrement; split <;> rfl
@[simp] theorem State.postIncrement_events (x : Reg) (s : State) : (s.postIncrement x).events = s.events := by
  unfold State.postIncrement; split <;> rfl
@[simp] theorem State.postIncrement_draws (x : Reg) (s : State) : (s.postIncrement x).draws = s.draws := by
  unfold State.postIncrement; split <;> rfl
@[simp] theorem State.postIncrement_reg (x : Reg) (s : State) (k : Reg) : (s.postIncrement x).reg k = s.reg k := by
  unfold State.postIncrement; split <;> rfl

@[simp] theorem State.setFlag_mem (c : Bool) (s : State) : (s.setFlag c).mem = s.mem := rfl
@[simp] theorem State.setFlag_pc (c : Bool) (s : State) : (s.setFlag c).pc = s.pc := rfl
@[simp] theorem State.setFlag_i (c : Bool) (s : State) : (s.setFlag c).i = s.i := rfl
@[simp] theorem State.setFlag_stack (c : Bool) (s : State) : (s.setFlag c).stack = s.stack := rfl
@[simp] theorem State.setFlag_dt (c : Bool) (s : State) : (s.setFlag c).dt = s.dt := rfl
@[simp] theorem State.setFlag_st (c : Bool) (s : State) : (s.setFlag c).st = s.st := rfl
@[simp] theorem State.setFlag_fb (c : Bool) (s : State) : (s.setFlag c).fb = s.fb := rfl
@[simp] theorem State.setFlag_rng (c : Bool) (s : State) : (s.setFlag c).rng = s.rng := rfl
@[simp] theorem State.setFlag_q (c : Bool) (s : State) : (s.setFlag c).q = s.q := rfl
@[simp] theorem State.setFlag_fault (c : Bool) (s : State) : (s.setFlag c).fault = s.fault := rfl
@[simp] theorem State.setFlag_params (c : Bool) (s : State) : (s.setFlag c).params = s.params := rfl
@[simp] theorem State.setFlag_pressed (c : Bool) (s : State) : (s.setFlag c).pressed = s.pressed := rfl
@[simp] theorem State.setFlag_released (c : Bool) (s : State) : (s.setFlag c).released = s.released := rfl
@[simp] theorem State.setFlag_changed (c : Bool) (s : State) : (s.setFlag c).changed = s.changed := rfl
@[simp] theorem State.setFlag_events (c : Bool) (s : State) : (s.setFlag c).events = s.events := rfl
@[simp] theorem State.setFlag_draws (c : Bool) (s : State) : (s.setFlag c).draws = s.draws := rfl

@[simp] theorem State.setFlag_reg (c : Bool) (s : State) (k : Reg) :
    (s.setFlag c).reg k = if k = 15 then flagByte c else s.reg k := by
  simp [State.setFlag, flagReg, eq_comm]

@[simp] theorem State.setResultAndFlag_mem (x : Reg) (r : Byte) (c : Bool) (s : State) :
    (s.setResultAndFlag x r c).mem = s.mem := rfl
@[simp] theorem State.setResultAndFlag_pc (x : Reg) (r : Byte) (c : Bool) (s : State) :
    (s.setResultAndFlag x r c).pc = s.pc := rfl
@[simp] theorem State.setResultAndFlag_i (x : Reg) (r : Byte) (c : Bool) (s : State) :
    (s.setResultAndFlag x r c).i = s.i := rfl
@[simp] theorem State.setResultAndFlag_stack (x : Reg) (r : Byte) (c : Bool) (s : State) :
    (s.setResultAndFlag x r c).stack = s.stack := rfl
@[simp] theorem State.setResultAndFlag_dt (x : Reg) (r : Byte) (c : Bool) (s : State) :
    (s.setResultAndFlag x r c).dt = s.dt := rfl
@[simp] theorem State.setResultAndFlag_st (x : Reg) (r : Byte) (c : Bool) (s : State) :
    (s.setResultAndFlag x r c).st = s.st := rfl
@[simp] theorem State.setResultAndFlag_fb (x : Reg) (r : Byte) (c : Bool) (s : State) :
    (s.setResultAndFlag x r c).fb = s.fb := rfl
@[simp] theorem State.setResultAndFlag_rng (x : Reg) (r : Byte) (c : Bool) (s : State) :
    (s.setResultAndFlag x r c).rng = s.rng := rfl
@[simp] theorem State.setResultAndFlag_q (x : Reg) (r : Byte) (c : Bool) (s : State) :
    (s.setResultAndFlag x r c).q = s.q := rfl
@[simp] theorem State.setResultAndFlag_fault (x : Reg) (r : Byte) (c : Bool) (s : State) :
    (s.setResultAndFlag x r c).fault = s.fault := rfl
@[simp] theorem State.setResultAndFlag_params (x : Reg) (r : Byte) (c : Bool) (s : State) :
    (s.setResultAndFlag x r c).params = s.params := rfl
@[simp] theorem State.setResultAndFlag_pressed (x : Reg) (r : Byte) (c : Bool) (s : State) :
    (s.setResultAndFlag x r c).pressed = s.pressed := rfl
@[simp] theorem State.setResultAndFlag_released (x : Reg) (r : Byte) (c : Bool) (s : State) :
    (s.setResultAndFlag x r c).released = s.released := rfl
@[simp] theorem State.setResultAndFlag_changed (x : Reg) (r : Byte) (c : Bool) (s : State) :
    (s.setResultAndFlag x r c).changed = s.changed := rfl
@[simp] theorem State.setResultAndFlag_events (x : Reg) (r : Byte) (c : Bool) (s : State) :
    (s.setResultAndFlag x r c).events = s.events := rfl
@[simp] theorem State.setResultAndFlag_draws (x : Reg) (r : Byte) (c : Bool) (s : State) :
    (s.setResultAndFlag x r c).draws = s.draws := rfl

/-- The flag is in `v[15]` whatever `x` is; the result is in `v[x]` unless `x` is 15 (42_alu.md R113). -/
@[simp] theorem State.setResultAndFlag_reg (x : Reg) (r : Byte) (c : Bool) (s : State) (k : Reg) :
    (s.setResultAndFlag x r c).reg k = if k = 15 then flagByte c else if k = x then r else s.reg k := by
  simp [State.setResultAndFlag, eq_comm (a := x)]

theorem flagByte_zero_or_one (c : Bool) : flagByte c = 0 ∨ flagByte c = 1 := by cases c <;> simp [flagByte]

/-! The skip and the post-increment read neither the key arrays nor (the skip) the quirk flag. -/

theorem State.skipIf_of_pressed (c : Bool) (p : BitVec 16) (s : State) :
    State.skipIf c { s with pressed := p } = { s.skipIf c with pressed := p } := by cases c <;> rfl

theorem State.skipIf_of_released (c : Bool) (p : BitVec 16) (s : State) :
    State.skipIf c { s with released := p } = { s.skipIf c with released := p } := by cases c <;> rfl

theorem State.skipIf_of_q (c q : Bool) (s : State) :
    State.skipIf c { s with q := q } = { s.skipIf c with q := q } := by cases c <;> rfl

theorem State.postIncrement_of_pressed (x : Reg) (p : BitVec 16) (s : State) :
    State.postIncrement x { s with pressed := p } = { s.postIncrement x with pressed := p } := by
  obtain ⟨_, _, _, _, _, _, _, _, _, q, _⟩ := s
  cases q <;> rfl

theorem State.postIncrement_of_released (x : Reg) (p : BitVec 16) (s : State) :
    State.postIncrement x { s with released := p } = { s.postIncrement x with released := p } := by
  obtain ⟨_, _, _, _, _, _, _, _, _, q, _⟩ := s
  cases q <;> rfl

/-! The memory blocks. -/

theorem accessInRange_iff (base count : Nat) : accessInRange base count = true ↔ count = 0 ∨ base + count ≤ 4096 := by
  unfold accessInRange memSize
  exact decide_eq_true_iff

@[simp] theorem State.regsUpTo_length (x : Reg) (s : State) : (s.regsUpTo x).length = x.val + 1 := by
  have := x.isLt
  simp only [State.regsUpTo, List.length_take, Vector.length_toList]
  omega

/-- Byte `k` of the block fx55 stores is `v[k]` (43_index_and_memory.md R135). -/
theorem State.regsUpTo_getD (x : Reg) (s : State) (k : Reg) (h : k ≤ x) : (s.regsUpTo x).getD k.val 0 = s.reg k := by
  have hk := k.isLt
  have hx : k.val ≤ x.val := h
  simp [State.regsUpTo, State.reg, List.getD_eq_getElem?_getD, show k.val < x.val + 1 by omega]

/-- The register file fx65 leaves (43_index_and_memory.md R136). -/
@[simp] theorem State.loadedRegs_get (x : Reg) (s : State) (k : Reg) :
    (s.loadedRegs x)[k] = if k ≤ x then s.mem.read (s.i.toNat + k.val) else s.reg k := by
  simp [State.loadedRegs]

@[simp] theorem decimalDigits_length (b : Byte) : (decimalDigits b).length = 3 := rfl

/-- Storing bytes in range keeps memory canonical. -/
theorem State.storeBytes_wf {s : State} {a : Nat} {bs : List Byte} (h : s.mem.wf = true) (ha : a + bs.length ≤ 4096) :
    (s.storeBytes a bs).mem.wf = true := Memory.writeBytes_wf h ha

/-! The waited key (46_keys_and_timers.md R166). -/

theorem mem_releasedKeys (r : BitVec 16) (k : Reg) : k ∈ releasedKeys r ↔ r.getLsbD k.val = true := by
  simp [releasedKeys]

theorem State.waitedKey_eq_none (s : State) : s.waitedKey = none ↔ releasedKeys s.released = [] := by
  unfold State.waitedKey; split <;> simp_all

/-- A waited key is a released one, whatever the free choice. -/
theorem State.waitedKey_mem {s : State} {k : Reg} (h : s.waitedKey = some k) : k ∈ releasedKeys s.released := by
  unfold State.waitedKey at h
  split at h
  · cases h
  · rename_i heq; cases h; simp [heq]
  · rename_i j js _ heq
    cases h
    rw [heq, List.getD_eq_getElem _ _ (Nat.mod_lt _ (by simp))]
    exact List.getElem_mem _

/-! Fetching, faulting, the next event. -/

/-- Everything the fetch can answer, in the order of its checks (60_exceptions.md R182). -/
theorem State.fetch_cases (s : State) :
    (s.oddPcFaults = true ∧ s.fetch = .error (.oddPc s.pc)) ∨
    (s.oddPcFaults = false ∧ s.pc.toNat ≤ 0x0FFE ∧ s.fetch = .ok (s.mem.wordAt s.pc.toNat)) ∨
    (s.oddPcFaults = false ∧ 0x0FFE < s.pc.toNat ∧
      s.fetch = .error (.memoryFault (max s.pc.toNat 4096) .fetch)) := by
  unfold State.fetch
  cases ho : s.oddPcFaults
  · cases ha : accessInRange s.pc.toNat 2
    · refine .inr (.inr ⟨rfl, ?_, rfl⟩)
      have := mt (accessInRange_iff s.pc.toNat 2).2 (by simp [ha])
      omega
    · refine .inr (.inl ⟨rfl, ?_, rfl⟩)
      have := (accessInRange_iff s.pc.toNat 2).1 ha
      omega
  · exact .inl ⟨rfl, rfl⟩

/-- A fetch inside memory, of an admitted parity, reads the word at `pc` (40_step_and_dispatch.md R91). -/
theorem State.fetch_ok {s : State} (ho : s.oddPcFaults = false) (hp : s.pc.toNat ≤ 0x0FFE) :
    s.fetch = .ok (s.mem.wordAt s.pc.toNat) := by
  rcases s.fetch_cases with ⟨h, _⟩ | ⟨_, _, h⟩ | ⟨_, h, _⟩
  · rw [ho] at h; cases h
  · exact h
  · omega

theorem State.oddPcFaults_iff (s : State) :
    s.oddPcFaults = true ↔ s.pc.toNat % 2 = 1 ∧ s.params.oddPcPolicy = .fault := by
  simp [State.oddPcFaults, BitVec.getLsbD, Nat.testBit_zero]

@[simp] theorem State.takeEvent_fetch (s : State) : s.takeEvent.fetch = s.fetch := rfl

/-- Entering an instruction and raising a fault in it puts `pc` back (60_exceptions.md R176). -/
theorem pc_add_two_sub_two (a : Word) : a + 2 - 2 = a := by simp

end Sys2Proof.Machine
end

