-- ==== Sys2Proof/Laws/Frame.lean ====
section
/-! SUPPORT. Frames: how `KeepsAllBut` composes, and the frame of each update of State. -/

namespace Sys2Proof.Machine

theorem Part.same_refl (s : State) (p : Part) : p.same s s := by cases p <;> simp [Part.same]

theorem Part.same_trans {s t u : State} {p : Part} (h : p.same s t) (h' : p.same t u) : p.same s u := by
  cases p <;> simp_all [Part.same]

theorem KeepsAllBut.refl (w : Part → Prop) (s : State) : KeepsAllBut w s s := fun p _ => Part.same_refl s p

theorem KeepsAllBut.trans {w : Part → Prop} {s t u : State} (h : KeepsAllBut w s t) (h' : KeepsAllBut w t u) :
    KeepsAllBut w s u := fun p hp => Part.same_trans (h p hp) (h' p hp)

theorem KeepsAllBut.mono {w w' : Part → Prop} {s t : State} (h : KeepsAllBut w s t) (hw : ∀ p, w p → w' p) :
    KeepsAllBut w' s t := fun p hp => h p fun hp' => hp (hw p hp')

@[simp] theorem parts_cons (q : Part) (qs : List Part) (p : Part) : parts (q :: qs) p ↔ p = q ∨ parts qs p := by
  simp [parts]

@[simp] theorem parts_nil (p : Part) : ¬ parts [] p := by simp [parts]

theorem keepsAllBut_setReg (k : Reg) (b : Byte) (s : State) : KeepsAllBut (parts [.reg k]) s (s.setReg k b) := by
  intro p hp
  cases p <;> simp_all [Part.same]
  rename_i j
  exact fun h => absurd h.symm hp

theorem keepsAllBut_setPc (a : Word) (s : State) : KeepsAllBut (parts [.pc]) s (s.setPc a) := by
  intro p hp; cases p <;> simp_all [Part.same]

theorem keepsAllBut_setI (a : Word) (s : State) : KeepsAllBut (parts [.index]) s (s.setI a) := by
  intro p hp; cases p <;> simp_all [Part.same]

theorem keepsAllBut_setStack (k : List Word) (s : State) : KeepsAllBut (parts [.stack]) s (s.setStack k) := by
  intro p hp; cases p <;> simp_all [Part.same]

theorem keepsAllBut_setDt (b : Byte) (s : State) : KeepsAllBut (parts [.delayTimer]) s (s.setDt b) := by
  intro p hp; cases p <;> simp_all [Part.same]

theorem keepsAllBut_setSt (b : Byte) (s : State) : KeepsAllBut (parts [.soundTimer]) s (s.setSt b) := by
  intro p hp; cases p <;> simp_all [Part.same]

theorem keepsAllBut_setRng (r : RngWord) (s : State) : KeepsAllBut (parts [.rng]) s (s.setRng r) := by
  intro p hp; cases p <;> simp_all [Part.same]

theorem keepsAllBut_setChanged (c : Option Bool) (s : State) : KeepsAllBut (parts [.changed]) s (s.setChanged c) := by
  intro p hp; cases p <;> simp_all [Part.same]

theorem keepsAllBut_setFb (f : Screen) (s : State) :
    KeepsAllBut (fun p => ∃ c, p = .cell c ∧ f.isOn c ≠ s.fb.isOn c) s (s.setFb f) := by
  intro p hp; cases p <;> simp_all [Part.same]

theorem keepsAllBut_skipIf (c : Bool) (s : State) : KeepsAllBut (parts [.pc]) s (s.skipIf c) := by
  intro p hp; cases p <;> simp_all [Part.same]

theorem keepsAllBut_postIncrement (x : Reg) (s : State) : KeepsAllBut (parts [.index]) s (s.postIncrement x) := by
  intro p hp; cases p <;> simp_all [Part.same]

theorem keepsAllBut_setResultAndFlag (x : Reg) (r : Byte) (c : Bool) (s : State) :
    KeepsAllBut (parts [.reg x, .reg 15]) s (s.setResultAndFlag x r c) := by
  intro p hp; cases p <;> simp_all [Part.same]

theorem keepsAllBut_latch (f : Fault) (s : State) : KeepsAllBut (parts [.latch, .changed]) s (s.latch f) := by
  intro p hp; cases p <;> simp_all [Part.same]

/-- Storing bytes in range changes those bytes only. -/
theorem keepsAllBut_storeBytes {s : State} {a : Nat} {bs : List Byte} (h : s.mem.wf = true)
    (ha : a + bs.length ≤ 4096) : KeepsAllBut (bytesFrom a bs.length) s (s.storeBytes a bs) := by
  intro p hp
  cases p with
  | byte c =>
    refine Memory.read_writeBytes_outside h ha fun hc => hp ⟨c - a, by omega, ?_⟩
    rw [Nat.add_sub_cancel' hc.1]
  | _ => simp [Part.same]

/-- Raising a fault takes it (60_exceptions.md R176). -/
theorem raise_takesFault {i : Instr} {s : State} {f : Fault} (h : exec i s = raise f s) : TakesFault i s f := by
  refine ⟨_, h, rfl, rfl, rfl, fun p hp => ?_⟩
  cases p <;> simp_all [Part.same]

end Sys2Proof.Machine
end

