-- ==== Sys2Proof/Laws/PerInstr.lean ====
section
/-! SUPPORT. Per instruction: the fixed bits of its encoding are those of its row in 30_encoding.md R76. -/

namespace Sys2Proof.Laws

/-! The operand fields lie outside the fixed bits (R72). -/

theorem placeX_outside (x : Reg) : placeX x &&& 0xF0FF = 0 := by revert x; decide
theorem placeX_outside_op (x : Reg) : placeX x &&& 0xF000 = 0 := by revert x; decide
theorem placeX_outside_xy (x : Reg) : placeX x &&& 0xF00F = 0 := by revert x; decide
theorem placeY_outside_op (y : Reg) : placeY y &&& 0xF000 = 0 := by revert y; decide
theorem placeY_outside_xy (y : Reg) : placeY y &&& 0xF00F = 0 := by revert y; decide
theorem placeN_outside_op (n : RowCount) : placeN n &&& 0xF000 = 0 := by revert n; decide
theorem placeNN_outside_op (nn : Byte) : placeNN nn &&& 0xF000 = 0 := by revert nn; decide +kernel
theorem placeNNN_outside_op (nnn : Addr12) : placeNNN nnn &&& 0xF000 = 0 := by revert nnn; decide +kernel

/-- Masking distributes over the parts of an encoding. -/
theorem or_and (a b m : Word) : (a ||| b) &&& m = (a &&& m) ||| (b &&& m) := by
  ext k; simp [Bool.and_or_distrib_right]

namespace FixedBits

/-- The mask and the fixed bits of an instruction's row (R76), as (mask, match); a NOP has no row. -/
def row : Instr → Option (Word × Word)
  | .cls => some (0xFFFF, 0x00E0)
  | .ret => some (0xFFFF, 0x00EE)
  | .jp _ => some (0xF000, 0x1000)
  | .call _ => some (0xF000, 0x2000)
  | .seImm _ _ => some (0xF000, 0x3000)
  | .sneImm _ _ => some (0xF000, 0x4000)
  | .seReg _ _ => some (0xF00F, 0x5000)
  | .sneReg _ _ => some (0xF00F, 0x9000)
  | .ldImm _ _ => some (0xF000, 0x6000)
  | .addImm _ _ => some (0xF000, 0x7000)
  | .ldReg _ _ => some (0xF00F, 0x8000)
  | .orReg _ _ => some (0xF00F, 0x8001)
  | .andReg _ _ => some (0xF00F, 0x8002)
  | .xorReg _ _ => some (0xF00F, 0x8003)
  | .addReg _ _ => some (0xF00F, 0x8004)
  | .subReg _ _ => some (0xF00F, 0x8005)
  | .subnReg _ _ => some (0xF00F, 0x8007)
  | .shr _ _ => some (0xF00F, 0x8006)
  | .shl _ _ => some (0xF00F, 0x800E)
  | .ldI _ => some (0xF000, 0xA000)
  | .jpV0 _ => some (0xF000, 0xB000)
  | .rnd _ _ => some (0xF000, 0xC000)
  | .drw _ _ _ => some (0xF000, 0xD000)
  | .skp _ => some (0xF0FF, 0xE09E)
  | .sknp _ => some (0xF0FF, 0xE0A1)
  | .ldVxDt _ => some (0xF0FF, 0xF007)
  | .ldDtVx _ => some (0xF0FF, 0xF015)
  | .ldStVx _ => some (0xF0FF, 0xF018)
  | .ldVxK _ => some (0xF0FF, 0xF00A)
  | .addI _ => some (0xF0FF, 0xF01E)
  | .ldF _ => some (0xF0FF, 0xF029)
  | .ldB _ => some (0xF0FF, 0xF033)
  | .storeRegs _ => some (0xF0FF, 0xF055)
  | .loadRegs _ => some (0xF0FF, 0xF065)
  | .nop _ => none

/-- The encoding of `i` carries the fixed bits of its row. -/
def Statement (i : Instr) : Prop := ∀ mask bits, row i = some (mask, bits) → encode i &&& mask = bits

theorem cls : Statement .cls := by
  rintro _ _ ⟨⟩; rfl
theorem ret : Statement .ret := by
  rintro _ _ ⟨⟩; rfl
theorem jp (nnn : Addr12) : Statement (.jp nnn) := by
  rintro _ _ ⟨⟩; rw [encode, or_and, placeNNN_outside_op]; rfl
theorem call (nnn : Addr12) : Statement (.call nnn) := by
  rintro _ _ ⟨⟩; rw [encode, or_and, placeNNN_outside_op]; rfl
theorem seImm (x : Reg) (nn : Byte) : Statement (.seImm x nn) := by
  rintro _ _ ⟨⟩; rw [encode, or_and, or_and, placeX_outside_op, placeNN_outside_op]; rfl
theorem sneImm (x : Reg) (nn : Byte) : Statement (.sneImm x nn) := by
  rintro _ _ ⟨⟩; rw [encode, or_and, or_and, placeX_outside_op, placeNN_outside_op]; rfl
theorem seReg (x y : Reg) : Statement (.seReg x y) := by
  rintro _ _ ⟨⟩; rw [encode, or_and, or_and, placeX_outside_xy, placeY_outside_xy]; rfl
theorem sneReg (x y : Reg) : Statement (.sneReg x y) := by
  rintro _ _ ⟨⟩; rw [encode, or_and, or_and, placeX_outside_xy, placeY_outside_xy]; rfl
theorem ldImm (x : Reg) (nn : Byte) : Statement (.ldImm x nn) := by
  rintro _ _ ⟨⟩; rw [encode, or_and, or_and, placeX_outside_op, placeNN_outside_op]; rfl
theorem addImm (x : Reg) (nn : Byte) : Statement (.addImm x nn) := by
  rintro _ _ ⟨⟩; rw [encode, or_and, or_and, placeX_outside_op, placeNN_outside_op]; rfl
theorem ldReg (x y : Reg) : Statement (.ldReg x y) := by
  rintro _ _ ⟨⟩; rw [encode, or_and, or_and, placeX_outside_xy, placeY_outside_xy]; rfl
theorem orReg (x y : Reg) : Statement (.orReg x y) := by
  rintro _ _ ⟨⟩; rw [encode, or_and, or_and, placeX_outside_xy, placeY_outside_xy]; rfl
theorem andReg (x y : Reg) : Statement (.andReg x y) := by
  rintro _ _ ⟨⟩; rw [encode, or_and, or_and, placeX_outside_xy, placeY_outside_xy]; rfl
theorem xorReg (x y : Reg) : Statement (.xorReg x y) := by
  rintro _ _ ⟨⟩; rw [encode, or_and, or_and, placeX_outside_xy, placeY_outside_xy]; rfl
theorem addReg (x y : Reg) : Statement (.addReg x y) := by
  rintro _ _ ⟨⟩; rw [encode, or_and, or_and, placeX_outside_xy, placeY_outside_xy]; rfl
theorem subReg (x y : Reg) : Statement (.subReg x y) := by
  rintro _ _ ⟨⟩; rw [encode, or_and, or_and, placeX_outside_xy, placeY_outside_xy]; rfl
theorem subnReg (x y : Reg) : Statement (.subnReg x y) := by
  rintro _ _ ⟨⟩; rw [encode, or_and, or_and, placeX_outside_xy, placeY_outside_xy]; rfl
theorem shr (x y : Reg) : Statement (.shr x y) := by
  rintro _ _ ⟨⟩; rw [encode, or_and, or_and, placeX_outside_xy, placeY_outside_xy]; rfl
theorem shl (x y : Reg) : Statement (.shl x y) := by
  rintro _ _ ⟨⟩; rw [encode, or_and, or_and, placeX_outside_xy, placeY_outside_xy]; rfl
theorem ldI (nnn : Addr12) : Statement (.ldI nnn) := by
  rintro _ _ ⟨⟩; rw [encode, or_and, placeNNN_outside_op]; rfl
theorem jpV0 (nnn : Addr12) : Statement (.jpV0 nnn) := by
  rintro _ _ ⟨⟩; rw [encode, or_and, placeNNN_outside_op]; rfl
theorem rnd (x : Reg) (nn : Byte) : Statement (.rnd x nn) := by
  rintro _ _ ⟨⟩; rw [encode, or_and, or_and, placeX_outside_op, placeNN_outside_op]; rfl
theorem drw (x y : Reg) (n : RowCount) : Statement (.drw x y n) := by
  rintro _ _ ⟨⟩; rw [encode, or_and, or_and, or_and, placeX_outside_op, placeY_outside_op, placeN_outside_op]; rfl
theorem skp (x : Reg) : Statement (.skp x) := by
  rintro _ _ ⟨⟩; rw [encode, or_and, placeX_outside]; rfl
theorem sknp (x : Reg) : Statement (.sknp x) := by
  rintro _ _ ⟨⟩; rw [encode, or_and, placeX_outside]; rfl
theorem ldVxDt (x : Reg) : Statement (.ldVxDt x) := by
  rintro _ _ ⟨⟩; rw [encode, or_and, placeX_outside]; rfl
theorem ldDtVx (x : Reg) : Statement (.ldDtVx x) := by
  rintro _ _ ⟨⟩; rw [encode, or_and, placeX_outside]; rfl
theorem ldStVx (x : Reg) : Statement (.ldStVx x) := by
  rintro _ _ ⟨⟩; rw [encode, or_and, placeX_outside]; rfl
theorem ldVxK (x : Reg) : Statement (.ldVxK x) := by
  rintro _ _ ⟨⟩; rw [encode, or_and, placeX_outside]; rfl
theorem addI (x : Reg) : Statement (.addI x) := by
  rintro _ _ ⟨⟩; rw [encode, or_and, placeX_outside]; rfl
theorem ldF (x : Reg) : Statement (.ldF x) := by
  rintro _ _ ⟨⟩; rw [encode, or_and, placeX_outside]; rfl
theorem ldB (x : Reg) : Statement (.ldB x) := by
  rintro _ _ ⟨⟩; rw [encode, or_and, placeX_outside]; rfl
theorem storeRegs (x : Reg) : Statement (.storeRegs x) := by
  rintro _ _ ⟨⟩; rw [encode, or_and, placeX_outside]; rfl
theorem loadRegs (x : Reg) : Statement (.loadRegs x) := by
  rintro _ _ ⟨⟩; rw [encode, or_and, placeX_outside]; rfl
theorem nop (w : Word) : Statement (.nop w) := by
  rintro _ _ ⟨⟩

end FixedBits

end Sys2Proof.Laws
end

