-- ==== Sys2Proof/Laws/Step.lean ====
section
/-! SUPPORT. Everything one step can do, said once. -/

namespace Sys2Proof.Machine

/-- The queue's first event comes; an empty queue gives a free event, of either kind (log 1, log 2). -/
theorem State.nextEvent_cases (s : State) :
    (∃ e es, s.events = e :: es ∧ s.nextEvent = e) ∨
    (s.events = [] ∧ (s.nextEvent = .tick ∨
      s.nextEvent = .step (Config.freePressed s.draws) (Config.freeReleased s.draws))) := by
  unfold State.nextEvent
  split
  · exact .inl ⟨_, _, ‹_›, rfl⟩
  · refine .inr ⟨‹_›, ?_⟩
    split
    · exact .inl rfl
    · exact .inr rfl

/-- A step that answers a next state started without a latched fault and took a `TICK`, latched a fault of the fetch, or
ran the fetched instruction after the pre-increment. -/
theorem step_cases {s t : State} (h : step s = .next t) :
    s.fault = none ∧
    ((s.nextEvent = .tick ∧ t = s.takeEvent.tick) ∨
     ∃ pressed released, s.nextEvent = .step pressed released ∧
      ((s.oddPcFaults = true ∧ t = (s.takeEvent.sampleKeys pressed released).latch (.oddPc s.pc)) ∨
       (s.oddPcFaults = false ∧ 0x0FFE < s.pc.toNat ∧
        t = (s.takeEvent.sampleKeys pressed released).latch (.memoryFault (max s.pc.toNat 4096) .fetch)) ∨
       (s.oddPcFaults = false ∧ s.pc.toNat ≤ 0x0FFE ∧
        exec (decodeWord (s.mem.wordAt s.pc.toNat)) (s.takeEvent.enterInstr pressed released) = .next t))) := by
  unfold step at h
  split at h
  · cases h
  · rename_i hf
    refine ⟨hf, ?_⟩
    split at h
    · rename_i he
      cases h
      exact .inl ⟨he, rfl⟩
    · rename_i p r he
      refine .inr ⟨p, r, he, ?_⟩
      unfold stepInstr at h
      rw [State.takeEvent_fetch] at h
      rcases s.fetch_cases with ⟨h1, h2⟩ | ⟨h1, h2, h3⟩ | ⟨h1, h2, h3⟩
      · rw [h2] at h; cases h
        exact .inl ⟨h1, rfl⟩
      · rw [h3] at h
        exact .inr (.inr ⟨h1, h2, h⟩)
      · rw [h3] at h; cases h
        exact .inr (.inl ⟨h1, h2, rfl⟩)

/-- A STEP that can fetch runs the word at `pc`. -/
theorem step_of_canFetch {s : State} {pressed released : BitVec 16} (h : s.CanFetch)
    (he : s.nextEvent = .step pressed released) :
    step s = exec (decodeWord (s.mem.wordAt s.pc.toNat)) (s.takeEvent.enterInstr pressed released) := by
  unfold step
  rw [h.noFault, he]
  simp only [stepInstr, State.takeEvent_fetch, State.fetch_ok h.parity h.inside]

end Sys2Proof.Machine
end

