-- ==== Sys2Proof/Tests/Slice0.lean ====
section
/-! SUPPORT. Tests. Decoded words are written from the encodings of 30_encoding.md R76; one-step tests are vectors of
95_test_vectors.md, named in the comment; the witnesses show states that meet the hypotheses of the statements. -/

namespace Sys2Proof.Tests

open Sys2Proof.Machine

/-! ## Well-formedness: one ill-formed term for each family of the table of unmatched words (R77) -/

theorem test_wf_accepts_unmatched_words :
    (Instr.nop 0x0000).wf ∧ (Instr.nop 0x5121).wf ∧ (Instr.nop 0x8128).wf ∧ (Instr.nop 0x9FFF).wf ∧
    (Instr.nop 0xE49F).wf ∧ (Instr.nop 0xF2FF).wf := by decide

theorem test_wf_refuses_family_0 : (Instr.nop 0x00E0).wf = false ∧ (Instr.nop 0x00EE).wf = false := by decide
theorem test_wf_refuses_family_1 : (Instr.nop 0x1000).wf = false := by decide
theorem test_wf_refuses_family_5 : (Instr.nop 0x5120).wf = false := by decide
theorem test_wf_refuses_family_8 : (Instr.nop 0x812E).wf = false ∧ (Instr.nop 0x8127).wf = false := by decide
theorem test_wf_refuses_family_9 : (Instr.nop 0x9120).wf = false := by decide
theorem test_wf_refuses_family_E : (Instr.nop 0xE49E).wf = false ∧ (Instr.nop 0xE4A1).wf = false := by decide
theorem test_wf_refuses_family_F : (Instr.nop 0xF165).wf = false ∧ (Instr.nop 0xF10A).wf = false := by decide

/-! ## Decoding: every constructor -/

theorem test_decode_family_0 :
    decodeWord 0x00E0 = .cls ∧ decodeWord 0x00EE = .ret ∧ decodeWord 0x00E1 = .nop 0x00E1 := by decide
theorem test_decode_families_1_2 : decodeWord 0x12A4 = .jp 0x2A4 ∧ decodeWord 0x2FFE = .call 0xFFE := by decide
theorem test_decode_skips :
    decodeWord 0x332A = .seImm 3 0x2A ∧ decodeWord 0x4F0B = .sneImm 15 0x0B ∧
    decodeWord 0x5120 = .seReg 1 2 ∧ decodeWord 0x9AB0 = .sneReg 10 11 := by decide
theorem test_decode_literals : decodeWord 0x639C = .ldImm 3 0x9C ∧ decodeWord 0x7120 = .addImm 1 0x20 := by decide
theorem test_decode_logic :
    decodeWord 0x8120 = .ldReg 1 2 ∧ decodeWord 0x8121 = .orReg 1 2 ∧ decodeWord 0x8122 = .andReg 1 2 ∧
    decodeWord 0x8123 = .xorReg 1 2 := by decide
theorem test_decode_arithmetic :
    decodeWord 0x8124 = .addReg 1 2 ∧ decodeWord 0x8125 = .subReg 1 2 ∧ decodeWord 0x8127 = .subnReg 1 2 ∧
    decodeWord 0x8126 = .shr 1 2 ∧ decodeWord 0x812E = .shl 1 2 := by decide
theorem test_decode_families_A_to_D :
    decodeWord 0xA2F0 = .ldI 0x2F0 ∧ decodeWord 0xB2F0 = .jpV0 0x2F0 ∧ decodeWord 0xC30F = .rnd 3 0x0F ∧
    decodeWord 0xD015 = .drw 0 1 5 := by decide
theorem test_decode_family_E : decodeWord 0xE49E = .skp 4 ∧ decodeWord 0xE4A1 = .sknp 4 := by decide
theorem test_decode_timers_and_keys :
    decodeWord 0xF207 = .ldVxDt 2 ∧ decodeWord 0xF215 = .ldDtVx 2 ∧ decodeWord 0xF218 = .ldStVx 2 ∧
    decodeWord 0xF50A = .ldVxK 5 := by decide
theorem test_decode_index_and_memory :
    decodeWord 0xF21E = .addI 2 ∧ decodeWord 0xF229 = .ldF 2 ∧ decodeWord 0xF233 = .ldB 2 ∧
    decodeWord 0xF255 = .storeRegs 2 ∧ decodeWord 0xF265 = .loadRegs 2 := by decide
/-- One word of each family (R76), bit by bit: `op`, `x`, `y` or literal, sub-opcode. -/
theorem test_decode_bits_families_0_to_7 :
    decodeWord 0b0000_0000_1110_0000 = .cls ∧ decodeWord 0b0001_0010_1010_0100 = .jp 0x2A4 ∧
    decodeWord 0b0010_1111_1111_1110 = .call 0xFFE ∧ decodeWord 0b0011_0011_0010_1010 = .seImm 3 0x2A ∧
    decodeWord 0b0100_1111_0000_1011 = .sneImm 15 0x0B ∧ decodeWord 0b0101_0001_0010_0000 = .seReg 1 2 ∧
    decodeWord 0b0110_0011_1001_1100 = .ldImm 3 0x9C ∧ decodeWord 0b0111_0001_0010_0000 = .addImm 1 0x20 := by decide
theorem test_decode_bits_families_8_to_F :
    decodeWord 0b1000_0001_0010_0111 = .subnReg 1 2 ∧ decodeWord 0b1001_1010_1011_0000 = .sneReg 10 11 ∧
    decodeWord 0b1010_0010_1111_0000 = .ldI 0x2F0 ∧ decodeWord 0b1011_0010_1111_0000 = .jpV0 0x2F0 ∧
    decodeWord 0b1100_0011_0000_1111 = .rnd 3 0x0F ∧ decodeWord 0b1101_0000_0001_0101 = .drw 0 1 5 ∧
    decodeWord 0b1110_0100_1010_0001 = .sknp 4 ∧ decodeWord 0b1111_0010_0001_1110 = .addI 2 := by decide
theorem test_decode_bytes_high_first : decode [0x12, 0xA4, 0x55] = .ok (.jp 0x2A4, [0x55]) := by decide
theorem test_decode_truncated : decode [0x12] = .error .truncated := by decide
theorem test_decode_table_word : decodeTableWord 16 0xF255 = some (.storeRegs 2) := by decide

/-! ## One step on a small state -/

/-- The base state of 95_test_vectors.md, with a generator state that evaluates. -/
def base : State := { State.reset with rng := 1 }

/-- Registers set one by one. -/
def regs (rs : List (Reg × Byte)) (s : State) : State := rs.foldl (fun s r => s.setReg r.1 r.2) s

/-- One STEP with these key arrays on the word placed at `pc`. -/
def stepKeys (w : Word) (pressed released : BitVec 16) (s : State) : Host.Outcome State Fault Refusal :=
  step { s.placeInstr w with events := [.step pressed released] }

/-- One STEP without keys on the word placed at `pc`. -/
def stepOf (w : Word) (s : State) : Host.Outcome State Fault Refusal := stepKeys w 0 0 s

/-- The outcome is a next state of which `p` holds. -/
def ok (o : Host.Outcome State Fault Refusal) (p : State → Bool) : Bool :=
  match o with
  | .next t => p t
  | _ => false

/-- The cell (`cx`, `cy`) of the default screen. -/
def cell (cx cy : Nat) : Nat := cy * 64 + cx

-- U1, F1, F2, F3
theorem test_nop_advances : ok (stepOf 0x0000 base) (fun t => t == { base with
    pc := 0x0202, changed := some false, draws := 1 }) := by decide
theorem test_fetch_odd : ok (stepOf 0x6000 { base with pc := 0x0FFF }) (fun t =>
    t.fault == some (.oddPc 0x0FFF) && t.pc == 0x0FFF && t.changed == none) := by decide
theorem test_fetch_outside : ok (step { base with pc := 0x1000, events := [.step 0 0] }) (fun t =>
    t.fault == some (.memoryFault 4096 .fetch) && t.pc == 0x1000) := by decide
theorem test_fetch_odd_executes : ok (stepOf 0x12A4 { base with
    pc := 0x0201, params := { base.params with oddPcPolicy := .execute } }) (fun t => t.pc == 0x02A4) := by decide
-- CF1, CF2
theorem test_ret_pops : ok (stepOf 0x00EE { base with pc := 0x0300, stack := [0x0202] }) (fun t =>
    t.pc == 0x0202 && t.stack == []) := by decide
theorem test_ret_empty : ok (stepOf 0x00EE { base with pc := 0x0300 }) (fun t =>
    t.fault == some .emptyStackReturn && t.pc == 0x0300 && t.changed == none) := by decide
-- CF3, CF6, CF7
theorem test_jp : ok (stepOf 0x12A4 base) (fun t => t.pc == 0x02A4) := by decide
theorem test_call_at_top : ok (stepOf 0x2300 { base with pc := 0x0FFE }) (fun t =>
    t.stack == [0x1000] && t.pc == 0x0300) := by decide
theorem test_call_overflow : ok (stepOf 0x2300 { base with
    stack := [0x0302, 0x0202], params := { base.params with stackDepth := some 2 } }) (fun t =>
    t.fault == some .stackOverflow && t.stack == [0x0302, 0x0202] && t.pc == 0x0200) := by decide
-- CF8 to CF11, CF14
theorem test_seImm : ok (stepOf 0x332A (regs [(3, 0x2A)] base)) (·.pc == 0x0204) ∧
    ok (stepOf 0x332A (regs [(3, 0x2B)] base)) (·.pc == 0x0202) := by decide
theorem test_sneImm : ok (stepOf 0x432A (regs [(3, 0x2A)] base)) (·.pc == 0x0202) ∧
    ok (stepOf 0x432A base) (·.pc == 0x0204) := by decide
theorem test_seReg : ok (stepOf 0x5120 (regs [(1, 7), (2, 7)] base)) (·.pc == 0x0204) ∧
    ok (stepOf 0x5120 (regs [(1, 7), (2, 8)] base)) (·.pc == 0x0202) := by decide
theorem test_sneReg : ok (stepOf 0x9120 (regs [(1, 7), (2, 8)] base)) (·.pc == 0x0204) ∧
    ok (stepOf 0x9110 (regs [(1, 7)] base)) (·.pc == 0x0202) := by decide
theorem test_skip_at_top : ok (stepOf 0x3000 { base with pc := 0x0FFE }) (·.pc == 0x1002) := by decide
-- CF12, CF13
theorem test_jpV0_dialects : ok (stepOf 0xB2F0 { regs [(0, 4), (2, 0x10)] base with q := true }) (·.pc == 0x02F4) ∧
    ok (stepOf 0xB2F0 (regs [(0, 4), (2, 0x10)] base)) (·.pc == 0x0300) := by decide
theorem test_jpV0_unmasked : ok (stepOf 0xBFFF { regs [(0, 0xFF)] base with q := true }) (·.pc == 0x10FE) := by decide
-- A1, A2c, A3, A4, A5, A6
theorem test_ldImm : ok (stepOf 0x639C base) (·.reg 3 == 0x9C) := by decide
theorem test_addImm_wraps : ok (stepOf 0x7FFF (regs [(15, 1)] base)) (·.reg 15 == 0) ∧
    ok (stepOf 0x7120 (regs [(1, 0xF0)] base)) (fun t => t.reg 1 == 0x10 && t.reg 15 == 0) := by decide
theorem test_ldReg : ok (stepOf 0x8120 (regs [(2, 0x55)] base)) (fun t => t.reg 1 == 0x55 && t.reg 2 == 0x55) := by
  decide
theorem test_orReg : ok (stepOf 0x8121 (regs [(1, 0x0F), (2, 0xF0), (15, 1)] base)) (fun t =>
    t.reg 1 == 0xFF && t.reg 15 == 1) := by decide
theorem test_andReg : ok (stepOf 0x8122 (regs [(1, 0x3C), (2, 0x0F), (15, 1)] base)) (fun t =>
    t.reg 1 == 0x0C && t.reg 15 == 1) := by decide
theorem test_xorReg : ok (stepOf 0x8123 (regs [(1, 0xFF), (2, 0x0F), (15, 1)] base)) (fun t =>
    t.reg 1 == 0xF0 && t.reg 15 == 1) := by decide
-- A7, A7f, A8, A8d, A9, A9d
theorem test_addReg : ok (stepOf 0x8124 (regs [(1, 0xC8), (2, 0x64)] base)) (fun t =>
    t.reg 1 == 0x2C && t.reg 15 == 1) := by decide
theorem test_addReg_flag_last : ok (stepOf 0x8F24 (regs [(15, 1), (2, 2)] base)) (·.reg 15 == 0) := by decide
theorem test_subReg : ok (stepOf 0x8125 (regs [(1, 5), (2, 10)] base)) (fun t =>
    t.reg 1 == 0xFB && t.reg 15 == 0) := by decide
theorem test_subReg_flag_last : ok (stepOf 0x8F25 (regs [(15, 3), (2, 5)] base)) (·.reg 15 == 0) := by decide
theorem test_subnReg : ok (stepOf 0x8127 (regs [(1, 5), (2, 10)] base)) (fun t =>
    t.reg 1 == 5 && t.reg 15 == 1) := by decide
theorem test_subnReg_flag_last : ok (stepOf 0x8F27 (regs [(15, 9), (2, 5)] base)) (·.reg 15 == 0) := by decide
-- V-SHIFT, both dialects and the other polarity; S3
theorem test_shr_dialects :
    ok (stepOf 0x8126 (regs [(1, 5), (2, 10)] base)) (fun t => t.reg 1 == 2 && t.reg 15 == 1) ∧
    ok (stepOf 0x8126 { regs [(1, 5), (2, 10)] base with q := true }) (fun t => t.reg 1 == 5 && t.reg 15 == 0) ∧
    ok (stepOf 0x8126 { regs [(1, 5), (2, 10)] base with
      params := { base.params with shiftCopyPolarity := false } }) (fun t => t.reg 1 == 5 && t.reg 15 == 0) := by
  decide
theorem test_shr_flag_last : ok (stepOf 0x8FF6 (regs [(15, 3)] base)) (·.reg 15 == 1) := by decide
theorem test_shl_dialects :
    ok (stepOf 0x812E (regs [(1, 0x81), (2, 0x40)] base)) (fun t => t.reg 1 == 2 && t.reg 15 == 1) ∧
    ok (stepOf 0x812E { regs [(1, 0x81), (2, 0x40)] base with q := true }) (fun t =>
      t.reg 1 == 0x80 && t.reg 15 == 0) := by decide
-- I1, I2b, I2c, I3b, I3c
theorem test_ldI : ok (stepOf 0xA2F0 base) (·.i == 0x02F0) := by decide
theorem test_addI_top : ok (stepOf 0xF21E { regs [(2, 0xFF)] base with i := 0xFF00 }) (·.i == 0xFFFF) := by decide
theorem test_addI_overflow : ok (stepOf 0xF21E { regs [(2, 0xFF)] base with i := 0xFF01 }) (fun t =>
    t.fault == some (.indexOverflow 0x10000) && t.i == 0xFF01 && t.pc == 0x0200) := by decide
theorem test_ldF : ok (stepOf 0xF229 (regs [(2, 0x1A)] base)) (·.i == 0x0082) ∧
    ok (stepOf 0xF229 (regs [(2, 0xFF)] base)) (·.i == 0x009B) := by decide
-- I4g, I4e
theorem test_ldB_overwrites_itself : ok (stepOf 0xF233 { regs [(2, 18)] base with i := 0x0200 }) (fun t =>
    t.mem == [(0x201, 1), (0x202, 8)] && t.i == 0x0200) := by decide
theorem test_ldB_faults_whole : ok (stepOf 0xF233 { regs [(2, 123)] base with i := 0x0FFE }) (fun t =>
    t.fault == some (.memoryFault 4096 .write) && t.mem.read 0xFFE == 0) := by decide
-- I5, I5d
theorem test_storeRegs : ok (stepOf 0xF255 { regs [(0, 0x11), (1, 0x22), (2, 0x33), (3, 0x44)] base with
    i := 0x0300 }) (fun t => t.mem == [(0x200, 0xF2), (0x201, 0x55), (0x300, 0x11), (0x301, 0x22), (0x302, 0x33)] &&
      t.i == 0x0300) := by decide
theorem test_storeRegs_quirk_top : ok (stepOf 0xF055 { regs [(0, 0xAB)] base with i := 0x0FFF, q := true }) (fun t =>
    t.mem.read 0xFFF == 0xAB && t.i == 0x1000 && t.fault == none) := by decide
-- I6 with the quirk on, I6d
theorem test_loadRegs : ok (stepOf 0xF265 { regs [(3, 0x77)] base with
    i := 0x0300, q := true, mem := [(0x300, 1), (0x301, 5), (0x302, 6), (0x303, 9)] }) (fun t =>
      t.reg 0 == 1 && t.reg 1 == 5 && t.reg 2 == 6 && t.reg 3 == 0x77 && t.i == 0x0303) := by decide
theorem test_loadRegs_faults_whole : ok (stepOf 0xF165 { regs [(0, 0x99), (1, 0x98)] base with
    i := 0x0FFF, q := true }) (fun t => t.fault == some (.memoryFault 4096 .read) && t.reg 0 == 0x99 &&
      t.i == 0x0FFF) := by decide
-- D16, D1, D6, and D12
theorem test_cls : ok (stepOf 0x00E0 { regs [(15, 1)] base with fb := [cell 0 0, cell 5 5, cell 63 31] }) (fun t =>
    t.fb == [] && t.reg 15 == 1 && t.changed == some false) := by decide
theorem test_drw_clips : ok (stepOf 0xD015 { regs [(0, 62)] base with i := 0x050 }) (fun t =>
    t.fb == [cell 62 0, cell 63 0, cell 62 1, cell 62 2, cell 62 3, cell 62 4, cell 63 4] && t.reg 15 == 0 &&
      t.changed == some true) := by decide +kernel
theorem test_drw_collides : ok (stepOf 0xD011 { regs [(0, 10), (1, 5)] base with
    i := 0x300, mem := [(0x300, 0xC0)], fb := [cell 11 5, cell 20 5] }) (fun t =>
    t.fb == [cell 10 5, cell 20 5] && t.reg 15 == 1) := by decide +kernel
theorem test_drw_clipped_row_not_read : ok (stepOf 0xD013 { regs [(1, 30)] base with
    i := 0x0FFE, mem := [(0xFFE, 0x80), (0xFFF, 0x40)] }) (fun t =>
    t.fb == [cell 0 30, cell 1 31] && t.fault == none) := by decide +kernel
-- R2 and R4 of the vectors; the second row of R155
theorem test_rnd : ok (stepOf 0xC10F { base with rng := 0x0000000040822041 }) (fun t =>
    t.reg 1 == 0x01 && t.rng == 0x100041060C011441) ∧
    ok (stepOf 0xC0FF { base with rng := 0x0123456789ABCDEF }) (fun t =>
    t.reg 0 == 0xB4 && t.rng == 0x3F2800D6569E01B4) := by decide
theorem test_xorshift_sequence : xorshift 0x3F2800D6569E01B4 = 0x606F949A3CEBD0B7 ∧
    xorshift 0x606F949A3CEBD0B7 = 0xC69BBA40DDDCCAD6 ∧ xorshift 0xC69BBA40DDDCCAD6 = 0xBDC162A6BF8906C3 ∧
    xorshift 0x8000000000000000 = 0x8100000000000000 := by decide
-- K1, K3, K2
theorem test_skp : ok (stepKeys 0xE49E 0x0400 0 (regs [(4, 10)] base)) (·.pc == 0x0204) ∧
    ok (stepKeys 0xE49E 0xFBFF 0 (regs [(4, 10)] base)) (·.pc == 0x0202) := by decide
theorem test_skp_not_masked : ok (stepKeys 0xE49E 0xFFFF 0 (regs [(4, 0x1A)] base)) (fun t =>
    t.fault == some (.keyIndexFault 0x1A) && t.pc == 0x0200) := by decide
theorem test_sknp : ok (stepKeys 0xE4A1 0x0400 0 (regs [(4, 10)] base)) (·.pc == 0x0202) ∧
    ok (stepKeys 0xE4A1 0 0 (regs [(4, 10)] base)) (·.pc == 0x0204) := by decide
-- K4, K5, K6, T1
theorem test_ldVxDt : ok (stepOf 0xF207 { base with dt := 0x3C }) (fun t => t.reg 2 == 0x3C && t.dt == 0x3C) := by
  decide
theorem test_ldDtVx : ok (stepOf 0xF215 (regs [(2, 0x3C)] base)) (fun t => t.dt == 0x3C && t.st == 0) := by decide
theorem test_ldStVx : ok (stepOf 0xF218 (regs [(2, 5)] base)) (fun t => t.st == 5 && t.dt == 0 && t.soundActive) := by
  decide
theorem test_tick : ok (step { base with dt := 2, st := 1, events := [.tick] }) (fun t => t.dt == 1 && t.st == 0) ∧
    ok (step { base with events := [.tick] }) (fun t => t.dt == 0 && t.st == 0) := by decide
-- K7, K7e
theorem test_ldVxK_waits : ok (stepKeys 0xF50A 0xFFFF 0 (regs [(5, 0xEE)] base)) (fun t =>
    t.pc == 0x0200 && t.reg 5 == 0xEE && t.fault == none) := by decide
theorem test_ldVxK_stores : ok (stepKeys 0xFF0A 0 0x8000 base) (fun t =>
    t.reg 15 == 0x0F && t.pc == 0x0202) := by decide +kernel

/-! ## Reset and construction (R190, R53) -/

theorem test_reset_glyph_A : [State.reset.mem.read 0x082, State.reset.mem.read 0x083, State.reset.mem.read 0x084,
    State.reset.mem.read 0x085, State.reset.mem.read 0x086, State.reset.mem.read 0x0A0] =
    [0xF0, 0x90, 0xF0, 0x90, 0x90, 0x00] := by decide
theorem test_construct_rom : ok (State.construct Config.defaultParams Config.glyphs true 7 true [0x12, 0x00]) (fun t =>
    t.mem == [(0x200, 0x12)] && t.q && t.rng == 7 && t.pc == 0x0200 && t.fault == none) := by decide +kernel
theorem test_construct_without_entropy :
    ok (State.construct Config.defaultParams Config.glyphs false 0 false []) (fun t =>
      t.fault == some .entropyUnavailable) := by decide +kernel
/-- The reset memory is canonical. -/
theorem reset_memory_wf : State.reset.mem.wf = true := by decide

/-! ## Witnesses: the hypotheses of the statements are met, each clause at a boundary -/

/-- A state as an instruction gets it, after the pre-increment. -/
def after : State := { base with pc := 0x0202, changed := some false }

theorem witness_DecodeOfEncode : (Instr.drw 15 15 15).wf = true ∧ (Instr.nop 0xFFFF).wf = true ∧
    (Instr.jp 0xFFF).wf = true := by decide

theorem witness_PatternsAreDisjoint : ∃ r ∈ opcodeTable, (0x00E0 : Word) &&& r.mask = r.pattern :=
  ⟨_, List.mem_cons_self, rfl⟩

/-- The last fetchable address, with the self-jump's word there. -/
def lastWord : State :=
  { base with pc := 0x0FFE, mem := [(0xFFE, 0x1F), (0xFFF, 0xFE)], events := [.step 0xFFFF 0x0001] }

theorem lastWord_canFetch : lastWord.CanFetch := ⟨rfl, by decide, by decide⟩

theorem witness_StepRunsDecodedInstruction : lastWord.CanFetch ∧ lastWord.nextEvent = .step 0xFFFF 0x0001 ∧
    decode [lastWord.mem.read lastWord.pc.toNat, lastWord.mem.read (lastWord.pc.toNat + 1)] =
      .ok (.jp 0xFFE, []) := ⟨lastWord_canFetch, rfl, by decide⟩

/-- `pc` at each edge: odd at the lowest and the highest address, just outside, and odd outside under the other policy. -/
theorem witness_FetchFaults :
    let executes : Params := { base.params with oddPcPolicy := .execute }
    base.fault = none ∧ { base with events := [.step 0 0] }.nextEvent = .step 0 0 ∧
    ((0x0001 : Word).toNat % 2 = 1 ∧ base.params.oddPcPolicy = .fault) ∧
    ((0x0FFF : Word).toNat % 2 = 1 ∧ base.params.oddPcPolicy = .fault) ∧
    (¬ ((0x1000 : Word).toNat % 2 = 1 ∧ base.params.oddPcPolicy = .fault) ∧ 0x0FFE < (0x1000 : Word).toNat) ∧
    (¬ ((0x0FFF : Word).toNat % 2 = 1 ∧ executes.oddPcPolicy = .fault) ∧ 0x0FFE < (0x0FFF : Word).toNat) := by decide

theorem witness_TickDecrementsTimers :
    { base with dt := 0, st := 255, events := [.tick] }.nextEvent = .tick ∧ base.fault = none ∧
    { base with fault := some .stackOverflow, events := [.tick] }.nextEvent = .tick := by decide

theorem witness_FaultedMachineAcceptsNoEvent :
    { base with fault := some .stackOverflow }.fault = some .stackOverflow := rfl

theorem witness_FaultingStepIsPrecise : base.fault = none ∧ ∃ t, step { base with pc := 0x1000, events := [.step 0 0] } = .next t ∧
    t.fault = some (.memoryFault 4096 .fetch) := ⟨rfl, _, rfl, rfl⟩

theorem witness_OnlyListedInstructionsFault : (Instr.jp 0).canFault = false ∧ ∃ t, exec (.jp 0) after = .next t :=
  ⟨rfl, _, rfl⟩

theorem witness_ChangedExactlyForDraw :
    (∃ t, stepOf 0xD010 base = .next t ∧ t.fault = none) ∧ (∃ t, stepOf 0x00E0 base = .next t ∧ t.fault = none) ∧
    (∃ t, stepOf 0x00EE base = .next t ∧ t.fault ≠ none) :=
  ⟨⟨_, rfl, rfl⟩, ⟨_, rfl, rfl⟩, ⟨_, rfl, by decide⟩⟩

/-- At the last fetchable address: an instruction that goes on, a skip taken and a skip not taken. -/
theorem witness_StepAdvancesByTwoOrSkips :
    { base with pc := 0x0FFE }.CanFetch ∧
    (∃ t, stepOf 0x6000 { base with pc := 0x0FFE } = .next t ∧ t.fault = none) ∧
    (decodeWord 0x6000).transfersControl = false ∧
    (∃ t, stepOf 0x3000 { base with pc := 0x0FFE } = .next t ∧ t.fault = none ∧ t.pc = 0x1002) ∧
    (∃ t, stepOf 0x4000 { base with pc := 0x0FFE } = .next t ∧ t.fault = none ∧ t.pc = 0x1000) ∧
    (decodeWord 0x3000).skips = true ∧ (decodeWord 0x4000).skips = true :=
  ⟨⟨rfl, by decide, by decide⟩, ⟨_, rfl, rfl⟩, by decide, ⟨_, rfl, rfl, rfl⟩, ⟨_, rfl, rfl, rfl⟩, by decide, by decide⟩

theorem witness_OnlyTheHostDecrementsTimers : (∃ t, exec (.ldDtVx 3) after = .next t) ∧
    (∃ t, exec (.ldStVx 3) after = .next t) ∧ (∃ t, exec .cls after = .next t) :=
  ⟨⟨_, rfl⟩, ⟨_, rfl⟩, ⟨_, rfl⟩⟩

theorem witness_KeysAreSampledAfresh : lastWord.nextEvent = .step 0xFFFF 0x0001 := rfl

theorem witness_OnlyKeyInstructionsReadKeys : (∃ t, exec (.ldVxK 3) after = .next t) ∧ (∀ x, Instr.ldVxK 3 ≠ .skp x) ∧
    (∀ x, Instr.ldVxK 3 ≠ .sknp x) ∧ (∃ t, exec (.skp 3) after = .next t) ∧ (∀ x, Instr.skp 3 ≠ .ldVxK x) :=
  ⟨⟨_, rfl⟩, fun _ => Instr.noConfusion, fun _ => Instr.noConfusion, ⟨_, rfl⟩, fun _ => Instr.noConfusion⟩

theorem witness_QuirkFlagIsConstant : (Instr.addReg 1 2).consultsQuirk = false ∧
    (∃ t, exec (.addReg 1 2) after = .next t) ∧ (∃ t, step lastWord = .next t) := ⟨rfl, ⟨_, rfl⟩, ⟨_, rfl⟩⟩

theorem witness_NopOnlyAdvances : { base with pc := 0x0FFE, events := [.step 0 0] }.CanFetch ∧
    { base with pc := 0x0FFE, events := [.step 0 0] }.nextEvent = .step 0 0 ∧
    unmatchedWord (base.mem.wordAt 0x0FFE) = true := ⟨⟨rfl, by decide, by decide⟩, rfl, by decide⟩

theorem witness_ReturnPopsTheStack : { after with stack := [0x1000, 0x0002] }.stack = 0x1000 :: [0x0002] ∧
    after.stack = [] := ⟨rfl, rfl⟩

/-- Without a bound, and one entry below a bound of 2. -/
theorem witness_CallPushesReturnAddress : after.params.stackDepth ≠ some after.depth ∧
    ({ after.params with stackDepth := some 2 } : Params).stackDepth ≠ some { after with stack := [2] }.depth := by
  decide

theorem witness_CallReturnRoundTrip : after.params.stackDepth ≠ some after.depth ∧
    ∃ t, exec (.call 0x300) after = .next t ∧ t.stack = [0x0202] := ⟨by decide, _, rfl, rfl⟩

theorem witness_JumpWithOffset : (15 : Reg).val = (0xFFF : Addr12).toNat / 256 ∧
    (0 : Reg).val = (0x0FF : Addr12).toNat / 256 := by decide

theorem witness_StackFaults : after.stack = [] ∧
    ({ after.params with stackDepth := some 2 } : Params).stackDepth = some { after with stack := [4, 2] }.stack.length :=
  ⟨rfl, rfl⟩

/-- The exact sum at 255 and at 256, with registers other than 15, and with 15. -/
theorem witness_AddSetsCarry : (1 : Reg) ≠ 15 ∧
    ¬ (255 < ((regs [(1, 0xFF)] after).reg 1).toNat + ((regs [(1, 0xFF)] after).reg 2).toNat) ∧
    255 < ((regs [(1, 0xFF), (2, 1)] after).reg 1).toNat + ((regs [(1, 0xFF), (2, 1)] after).reg 2).toNat ∧
    ok (exec (.addReg 15 2) (regs [(15, 0xFF), (2, 2)] after)) (·.reg 15 == 1) := by decide

/-- Equal operands (no borrow) and one less (borrow). -/
theorem witness_SubtractSetsNoBorrow : (1 : Reg) ≠ 15 ∧
    ((regs [(1, 7), (2, 7)] after).reg 2).toNat ≤ ((regs [(1, 7), (2, 7)] after).reg 1).toNat ∧
    ¬ (((regs [(1, 6), (2, 7)] after).reg 2).toNat ≤ ((regs [(1, 6), (2, 7)] after).reg 1).toNat) := by decide

theorem witness_ShiftsFollowThePolarity : (1 : Reg) ≠ 15 ∧ ¬ (after.q = after.params.shiftCopyPolarity) ∧
    { after with q := true }.q = after.params.shiftCopyPolarity := by decide

theorem witness_FlagRegisterWriters : (Instr.addReg 1 2).writesFlag = true ∧
    (∃ t, exec (.addReg 1 2) (regs [(1, 0xFF), (2, 1)] after) = .next t ∧ t.reg 15 ≠ after.reg 15 ∧ t.fault = none) ∧
    (Instr.loadRegs 15).namesDest 15 = true := ⟨rfl, ⟨_, rfl, by decide, rfl⟩, by decide⟩

/-- The sums 0xFFFF and 0x10000. -/
theorem witness_AddToIndex :
    let s : State := regs [(2, 0xFF)] { after with i := 0xFF00 }
    let t : State := regs [(2, 0xFF)] { after with i := 0xFF01 }
    s.i.toNat + (s.reg 2).toNat = 0xFFFF ∧ t.i.toNat + (t.reg 2).toNat = 0x10000 := by decide

/-- The last three bytes of memory. -/
theorem witness_StoreDecimalDigits : { after with i := 0x0FFD }.mem.wf = true ∧
    { after with i := 0x0FFD }.i.toNat + 2 = 4095 := by decide

/-- The last sixteen bytes of memory, all registers; and one register at the last byte. -/
theorem witness_StoreRegisters : after.mem.wf = true ∧ { after with i := 0x0FF0 }.i.toNat + (15 : Reg).val = 4095 ∧
    { after with i := 0x0FFF }.i.toNat + (0 : Reg).val = 4095 ∧ (15 : Reg) ≤ 15 := by decide

theorem witness_LoadRegisters : { after with i := 0x0FF0 }.i.toNat + (15 : Reg).val = 4095 ∧
    (0 : Reg) ≤ 15 ∧ (15 : Reg) ≤ 15 := by decide

theorem lastByte_spriteInMemory : SpriteInMemory 1 1 { after with i := 0x0FFF } := by
  intro r hr _
  have : r < 1 := hr
  show 0x0FFF + r < 4096
  omega

/-- One byte past the edge for each: three bytes from 4094, sixteen and one from 4081 and 4096, two rows from 4095. -/
theorem witness_DataAccessFaults : 4095 < { after with i := 0x0FFE }.i.toNat + 2 ∧
    4095 < { after with i := 0x0FF1 }.i.toNat + (15 : Reg).val ∧ 4095 < { after with i := 0x1000 }.i.toNat + (0 : Reg).val ∧
    ¬ SpriteInMemory 1 2 { after with i := 0x0FFF } :=
  ⟨by decide, by decide, by decide, fun h => absurd (h 1 (by decide) (by decide)) (by decide)⟩

theorem witness_StoreThenLoadRegisters : after.mem.wf = true ∧ { after with i := 0x0FF0 }.i.toNat + (15 : Reg).val ≤ 4095 ∧
    (15 : Reg) ≤ 15 ∧ ∃ t u : State, exec (.storeRegs 15) { after with i := 0x0FF0 } = .next t ∧ u.mem = t.mem ∧
      u.i = 0x0FF0 := ⟨by decide, by decide, by decide, _, _, rfl, rfl, rfl⟩

/-- The stored word is the last of memory. -/
theorem witness_StoredCodeIsFetched : after.mem.wf = true ∧ { after with i := 0x0FFE }.i.toNat + (1 : Reg).val = 4095 ∧
    (1 : Reg).val = (0 : Reg).val + 1 ∧ (1 : Reg) ≤ 1 ∧
    ∃ t u : State, exec (.storeRegs 1) { after with i := 0x0FFE } = .next t ∧ u.mem = t.mem ∧
      u.pc.toNat = 0x0FFE + (0 : Reg).val ∧ u.oddPcFaults = false :=
  ⟨by decide, by decide, by decide, by decide, _, { after with i := 0x0FFE, pc := 0x0FFE }, rfl, rfl, by decide, by decide⟩

theorem witness_MemoryAndIndexWriters : (∃ t, exec .cls after = .next t) ∧ (∀ x, Instr.cls ≠ .ldB x) ∧
    (∀ x, Instr.cls ≠ .storeRegs x) ∧ (∀ a, Instr.cls ≠ .ldI a) ∧ (∀ x, Instr.cls ≠ .addI x) ∧
    (∀ x, Instr.cls ≠ .ldF x) ∧ (∀ x, Instr.cls ≠ .loadRegs x) :=
  ⟨⟨_, rfl⟩, fun _ => Instr.noConfusion, fun _ => Instr.noConfusion, fun _ => Instr.noConfusion,
    fun _ => Instr.noConfusion, fun _ => Instr.noConfusion, fun _ => Instr.noConfusion⟩

/-- One row at the last byte; and a sprite whose rows past the bottom edge would lie outside memory. -/
theorem witness_DrawXorsTheSprite : after.fb.wf after.params = true ∧ SpriteInMemory 1 1 { after with i := 0x0FFF } ∧
    SpriteInMemory 1 3 { regs [(1, 30)] after with i := 0x0FFE } ∧
    { after with fb := [0, 2047] }.fb.wf after.params = true := by
  refine ⟨by decide, lastByte_spriteInMemory, fun r _ h => ?_, by decide⟩
  have : 30 + r < 32 := h
  show 0x0FFE + r < 4096
  omega

theorem witness_DrawTwiceRestores : after.fb.wf after.params = true ∧ SpriteInMemory 1 1 { after with i := 0x0FFF } ∧
    (0 : Reg) ≠ 15 ∧ (1 : Reg) ≠ 15 ∧ ∃ t u, exec (.drw 0 1 1) { after with i := 0x0FFF } = .next t ∧
      exec (.drw 0 1 1) t = .next u ∧ t.reg 15 = 0 :=
  ⟨by decide, lastByte_spriteInMemory, by decide, by decide, _, _, rfl, rfl, by decide +kernel⟩

theorem witness_ScreenStackGeneratorWriters : (∃ t, exec (.jp 0) after = .next t) ∧ Instr.jp 0 ≠ .cls ∧
    (∀ x y n, Instr.jp 0 ≠ .drw x y n) ∧ (∀ a, Instr.jp 0 ≠ .call a) ∧ Instr.jp 0 ≠ .ret ∧
    (∀ x nn, Instr.jp 0 ≠ .rnd x nn) :=
  ⟨⟨_, rfl⟩, by decide, fun _ _ _ => Instr.noConfusion, fun _ => Instr.noConfusion, by decide,
    fun _ _ => Instr.noConfusion⟩

/-- The intermediate values of the second row of R155. -/
theorem witness_RandomByteUnderMask :
    let s : State := { after with rng := 0x0123456789ABCDEF }
    (0x698FB452F0162DEF : RngWord) = s.rng ^^^ BitVec.ofNat 64 (s.rng.toNat * 2 ^ 13) ∧
    (0x695CAB3A55F601B4 : RngWord) = 0x698FB452F0162DEF ^^^ BitVec.ofNat 64 ((0x698FB452F0162DEF : RngWord).toNat / 2 ^ 7) ∧
    (0x3F2800D6569E01B4 : RngWord) =
      0x695CAB3A55F601B4 ^^^ BitVec.ofNat 64 ((0x695CAB3A55F601B4 : RngWord).toNat * 2 ^ 17) := by decide

/-- Key 15 is a key, 16 is not. -/
theorem witness_KeySkips : ((regs [(4, 15)] after).reg 4).toNat ≤ 15 ∧ 15 < ((regs [(4, 16)] after).reg 4).toNat := by
  decide

/-- No key released; key 0 and key 15 released. -/
theorem witness_WaitForKeyRelease : (∀ k, k < 16 → after.released.getLsbD k = false) ∧
    (∃ k, k < 16 ∧ { after with released := 0x0001 }.released.getLsbD k = true) ∧
    (∃ k, k < 16 ∧ { after with released := 0x8000 }.released.getLsbD k = true) :=
  ⟨by decide, ⟨0, by decide, by decide⟩, ⟨15, by decide, by decide⟩⟩

theorem witness_WaitingStepStandsStill :
    let s : State := { base with pc := 0x0FFE, mem := [(0xFFE, 0xFF), (0xFFF, 0x0A)], events := [.step 0xFFFF 0] }
    s.CanFetch ∧ s.nextEvent = .step 0xFFFF 0 ∧
      s.mem.wordAt s.pc.toNat = 0xF00A ||| (BitVec.ofNat 16 (15 : Reg).val <<< 8) :=
  ⟨⟨rfl, by decide, by decide⟩, rfl, by decide⟩

/-- The longest ROM and the empty one. -/
theorem witness_ConstructedMemory : Config.glyphs.length = 80 ∧ (List.replicate 3584 (0xFF : Byte)).length ≤ 3584 ∧
    ([] : List Byte).length ≤ 3584 := ⟨by decide, by rw [List.length_replicate], by decide⟩

theorem witness_ConstructedRegisters : Config.glyphs.length = 80 ∧ ([] : List Byte).length ≤ 3584 := by decide

theorem witness_InvariantAtConstruction :
    ∃ t, State.construct Config.defaultParams Config.glyphs true 0 true [0x12] = .next t :=
  ⟨_, (if_neg (by decide)).trans (if_neg (by decide))⟩

/-- A state at the edges of the invariant: `pc` 0x10FE, a stack of `STACK_DEPTH` entries, the last byte and the last cell. -/
def edge : State :=
  { base with
    pc := 0x10FE, stack := [0x1000, 0x0002], params := { base.params with stackDepth := some 2 },
    mem := [(4095, 1)], fb := [2047], events := [.step 0 0] }

theorem edge_stack {e : Word} (h : e ∈ edge.stack) : e = 0x1000 ∨ e = 0x0002 := by simpa [edge] using h

theorem edge_inv : edge.Inv where
  memory := by decide
  screen := by decide
  pcBound := by decide
  stackBound := fun e h => by rcases edge_stack h with rfl | rfl <;> decide
  stackEven := fun _ e h => by rcases edge_stack h with rfl | rfl <;> decide
  depthBound := fun d h => by
    have : 2 = d := Option.some.inj h
    subst this
    decide

theorem witness_InvariantIsKept : edge.Inv ∧ ∃ t, step edge = .next t := ⟨edge_inv, _, rfl⟩

/-- A jump to itself at the last fetchable address, before a STEP and before a `TICK`. -/
theorem witness_EndOfRunIsStable : lastWord.EndOfRun ∧ lastWord.nextEvent = .step 0xFFFF 0x0001 ∧
    { lastWord with events := [.tick] }.EndOfRun ∧ { lastWord with events := [.tick] }.nextEvent = .tick :=
  ⟨⟨rfl, by decide, by decide, by decide⟩, rfl, ⟨rfl, by decide, by decide, by decide⟩, rfl⟩

/-- A queue with one event, and the step that takes it. -/
theorem witness_EventsAreTakenInOrder : lastWord.events = .step 0xFFFF 0x0001 :: [] ∧ ∃ t, step lastWord = .next t :=
  ⟨rfl, _, rfl⟩

/-! ## The host's interface -/

theorem test_withFetchWord_runs_it : ok (step (State.reset.withFetchWord 16 0x639C)) (·.reg 3 == 0x9C) := by decide

end Sys2Proof.Tests
end

section
/-! Construction (70_reset_and_hazards.md R190): what memory holds afterwards. -/

namespace Sys2Proof.Machine

/-- Outside the glyph table's place, what nothing has written reads as zero. -/
theorem Memory.resetByte_outside {a : Nat} (h : ¬ (0x050 ≤ a ∧ a < 0x0A0)) : Memory.resetByte a = 0 := if_neg h

/-- With a glyph table of 80 bytes, a ROM that fits and entropy, construction answers a machine with the constructed
memory. -/
theorem State.construct_mem {p : Params} {glyphs rom : List Byte} {q : Bool} {seed : RngWord}
    (hg : glyphs.length = 80) (hr : rom.length ≤ maxRomLen) :
    ∃ t, State.construct p glyphs q seed true rom = .next t ∧ t.mem = constructMemory glyphs rom :=
  ⟨_, (if_neg (not_not.2 hg)).trans (if_neg (Nat.not_lt.2 hr)), rfl⟩

section
variable {glyphs rom : List Byte} (hg : glyphs.length = 80)
include hg

theorem glyphs_fit : 0x050 + glyphs.length ≤ memSize := by rw [hg]; decide

/-- The memory with the glyph table alone is canonical. -/
theorem Memory.writeBytes_glyphs_wf : (Memory.writeBytes [] 0x050 glyphs).wf = true :=
  Memory.writeBytes_wf rfl (glyphs_fit hg)

variable (hr : rom.length ≤ maxRomLen)
include hr

/-- From 0x200 on stands the ROM. -/
theorem constructMemory_read_rom {j : Nat} (hj : j < rom.length) :
    (constructMemory glyphs rom).read (0x200 + j) = rom.getD j 0 :=
  Memory.read_writeBytes_at (Memory.writeBytes_glyphs_wf hg) (Nat.add_le_add_left hr 0x200) hj

/-- Outside the ROM's place, storing the ROM leaves what the glyph table made of memory. -/
theorem constructMemory_read_outside_rom {a : Nat} (ha : ¬ (0x200 ≤ a ∧ a < 0x200 + rom.length)) :
    (constructMemory glyphs rom).read a = (Memory.writeBytes [] 0x050 glyphs).read a :=
  Memory.read_writeBytes_outside (Memory.writeBytes_glyphs_wf hg) (Nat.add_le_add_left hr 0x200) ha

/-- From 0x050 on stands the glyph table: it ends below the ROM. -/
theorem constructMemory_read_glyph {j : Nat} (hj : j < 80) :
    (constructMemory glyphs rom).read (0x050 + j) = glyphs.getD j 0 := by
  rw [constructMemory_read_outside_rom hg hr (by omega)]
  exact Memory.read_writeBytes_at rfl (glyphs_fit hg) (hg ▸ hj)

/-- Everything outside the glyph table and the ROM is zero. -/
theorem constructMemory_read_elsewhere {a : Nat} (hglyph : ¬ (0x050 ≤ a ∧ a < 0x0A0))
    (hrom : ¬ (0x200 ≤ a ∧ a < 0x200 + rom.length)) : (constructMemory glyphs rom).read a = 0 := by
  rw [constructMemory_read_outside_rom hg hr hrom,
    Memory.read_writeBytes_outside rfl (glyphs_fit hg) (by omega)]
  exact Memory.resetByte_outside hglyph

end

/-- Settles O55: the ROM is stored over the glyph table, which is stored over empty memory, and their places are
disjoint. -/
theorem constructedMemory : Obligations.ConstructedMemory := by
  intro p glyphs rom q seed hg hr
  obtain ⟨t, ht, hmem⟩ := State.construct_mem (p := p) (q := q) (seed := seed) hg hr
  refine ⟨t, ht, ?_⟩
  rw [hmem]
  exact ⟨fun _ => constructMemory_read_glyph hg hr, fun _ => constructMemory_read_rom hg hr,
    fun _ _ => constructMemory_read_elsewhere hg hr⟩

end Sys2Proof.Machine
end

section
/-! The opcode table (30_encoding.md R74, R76): a word is decoded by the one row whose fixed bits it carries. -/

namespace Sys2Proof

@[simp] theorem OpcodeRow.accepts_iff (r : OpcodeRow) (w : Word) : r.accepts w = true ↔ w &&& r.mask = r.pattern :=
  beq_iff_eq

/-- Two rows that ask for different values of a bit both of them fix. -/
def OpcodeRow.Differs (r r' : OpcodeRow) : Prop := r.pattern &&& r'.mask ≠ r'.pattern &&& r.mask

theorem OpcodeRow.Differs.disjoint {r r' : OpcodeRow} (h : r.Differs r') (w : Word) :
    ¬ (r.accepts w = true ∧ r'.accepts w = true) := by
  simp only [accepts_iff]
  rintro ⟨hr, hr'⟩
  apply h
  rw [← hr, ← hr', BitVec.and_assoc, BitVec.and_assoc, BitVec.and_comm r.mask]

theorem opcodeTable_differs : opcodeTable.Pairwise OpcodeRow.Differs := by
  unfold OpcodeRow.Differs
  decide

/-- A row fixes no bit outside its mask. -/
theorem pattern_within_mask : ∀ r ∈ opcodeTable, r.pattern &&& r.mask = r.pattern := by decide

/-- No row builds the no-op. -/
theorem build_ne_nop : ∀ r ∈ opcodeTable, ∀ w w' : Word, r.build w ≠ .nop w' := by
  simp [opcodeTable, opcodeRowsLow, opcodeRowsAlu, opcodeRowsHigh]

/-- In a list where no two members satisfy `p` together, a member that does is the one `find?` answers. -/
theorem find?_eq_some_of_pairwise {α : Type} {p : α → Bool} {l : List α}
    (hl : l.Pairwise fun a b => ¬ (p a = true ∧ p b = true)) {a : α} (ha : a ∈ l) (hp : p a = true) :
    l.find? p = some a := by
  induction hl with
  | nil => cases ha
  | @cons b l hb _ ih =>
    rcases List.mem_cons.1 ha with rfl | hal
    · exact List.find?_cons_of_pos hp
    · rw [List.find?_cons_of_neg fun h => hb a hal ⟨h, hp⟩]
      exact ih hal

/-- R74: the row a word matches decides its decoding. -/
theorem decodeWord_of_mem {r : OpcodeRow} (hr : r ∈ opcodeTable) {w : Word} (h : w &&& r.mask = r.pattern) :
    decodeWord w = r.build w := by
  have hfind := find?_eq_some_of_pairwise (opcodeTable_differs.imp (·.disjoint w)) hr ((r.accepts_iff w).2 h)
  rw [decodeWord, hfind]

/-- R77: exactly the words that match no row are no-ops. -/
theorem decodeWord_eq_nop_iff (w : Word) :
    decodeWord w = .nop w ↔ ∀ r ∈ opcodeTable, w &&& r.mask ≠ r.pattern := by
  constructor
  · intro hnop r hr h
    exact build_ne_nop r hr w w ((decodeWord_of_mem hr h).symm.trans hnop)
  · intro h
    have hnone : opcodeTable.find? (·.accepts w) = none := by simpa using h
    rw [decodeWord, hnone]

/-- Settles O3: any two rows ask for different values of a bit both of them fix. -/
theorem patternsAreDisjoint : Obligations.PatternsAreDisjoint :=
  ⟨rfl, opcodeTable_differs.imp OpcodeRow.Differs.disjoint, fun _ hr _ => decodeWord_of_mem hr⟩

end Sys2Proof
end

section
/-! The words that match no pattern (30_encoding.md R77). -/

namespace Sys2Proof

/-! What each mask of the table compares (R74): the family digit `w[15:12]`, alone or with the low digit, the low
byte or the whole word. -/

/-- A word is its four digits. -/
theorem word_eq_iff_digits {u w : Word} :
    u = w ↔ u.extractLsb' 12 4 = w.extractLsb' 12 4 ∧ u.extractLsb' 8 4 = w.extractLsb' 8 4 ∧
      u.extractLsb' 4 4 = w.extractLsb' 4 4 ∧ u.extractLsb' 0 4 = w.extractLsb' 0 4 := by
  constructor
  · rintro rfl
    exact ⟨rfl, rfl, rfl, rfl⟩
  · simp only [BitVec.toNat_eq, BitVec.extractLsb'_toNat, Nat.shiftRight_eq_div_pow]
    omega

/-- The low byte of a word is its two low digits. -/
theorem lowByte_eq_iff_digits {u w : Word} :
    u.extractLsb' 0 8 = w.extractLsb' 0 8 ↔
      u.extractLsb' 4 4 = w.extractLsb' 4 4 ∧ u.extractLsb' 0 4 = w.extractLsb' 0 4 := by
  simp only [BitVec.toNat_eq, BitVec.extractLsb'_toNat, Nat.shiftRight_eq_div_pow]
  omega

@[simp] theorem digit_and_0xF (d : BitVec 4) : d &&& 15#4 = d := BitVec.and_allOnes

section
variable {w p : Word}

theorem and_0xF000_eq_iff (hp : p &&& 0xF000 = p) :
    w &&& 0xF000 = p ↔ w.extractLsb' 12 4 = p.extractLsb' 12 4 := by
  nth_rewrite 1 [← hp]
  simp [word_eq_iff_digits, BitVec.extractLsb'_and]

theorem and_0xF00F_eq_iff (hp : p &&& 0xF00F = p) :
    w &&& 0xF00F = p ↔ w.extractLsb' 12 4 = p.extractLsb' 12 4 ∧ w.extractLsb' 0 4 = p.extractLsb' 0 4 := by
  nth_rewrite 1 [← hp]
  simp [word_eq_iff_digits, BitVec.extractLsb'_and]

theorem and_0xF0FF_eq_iff (hp : p &&& 0xF0FF = p) :
    w &&& 0xF0FF = p ↔ w.extractLsb' 12 4 = p.extractLsb' 12 4 ∧ w.extractLsb' 0 8 = p.extractLsb' 0 8 := by
  nth_rewrite 1 [← hp]
  simp [word_eq_iff_digits, lowByte_eq_iff_digits, BitVec.extractLsb'_and]

theorem and_0xFFFF_eq_iff : w &&& 0xFFFF = p ↔ w.extractLsb' 12 4 = p.extractLsb' 12 4 ∧ w = p := by
  have hw : w &&& 0xFFFF = w := BitVec.and_allOnes
  rw [hw]
  exact ⟨fun h => ⟨congrArg _ h, h⟩, And.right⟩

end

/-- The words that match no row are those of the family table: family by family, the rows' low digits, low bytes or
whole words are the ones the table leaves out. -/
theorem matches_no_row_iff_unmatchedWord (w : Word) :
    (∀ r ∈ opcodeTable, w &&& r.mask ≠ r.pattern) ↔ unmatchedWord w = true := by
  simp (disch := decide) only [opcodeTable, opcodeRowsLow, opcodeRowsAlu, opcodeRowsHigh, List.forall_mem_append,
    List.forall_mem_cons, ne_eq, and_0xF000_eq_iff, and_0xF00F_eq_iff, and_0xF0FF_eq_iff, and_0xFFFF_eq_iff,
    unmatchedWord]
  simp only [← BitVec.toNat_inj]
  have hfamily := (w.extractLsb' 12 4).isLt
  have hlow := (w.extractLsb' 0 4).isLt
  generalize (w.extractLsb' 12 4).toNat = family at *
  generalize (w.extractLsb' 0 4).toNat = n at *
  generalize (w.extractLsb' 0 8).toNat = nn at *
  interval_cases family <;> simp [BitVec.toNat_eq]
  · -- family 8: the rows' low digits are 0 to 7 and E
    omega
  · -- family F: the table lists the rows' low bytes in another order
    omega

theorem decodeWord_eq_nop_iff_unmatchedWord (w : Word) : decodeWord w = .nop w ↔ unmatchedWord w = true :=
  (decodeWord_eq_nop_iff w).trans (matches_no_row_iff_unmatchedWord w)

/-- Settles O4: both sides say that no row matches the word. -/
theorem unmatchedWordsAreTheFamilyTable : Obligations.UnmatchedWordsAreTheFamilyTable := fun w =>
  ⟨matches_no_row_iff_unmatchedWord w, (decodeWord_eq_nop_iff_unmatchedWord w).symm⟩

end Sys2Proof
end

section
/-! Decoding an encoded instruction (30_encoding.md R73, R82): one lemma for each format of operands. -/

namespace Sys2Proof
open Laws

/-! What each operand's place holds in each field of a word (R71). -/

@[simp] theorem placeX_field_x (x : Reg) : (placeX x).extractLsb' 8 4 = .ofFin x := by revert x; decide
@[simp] theorem placeX_field_y (x : Reg) : (placeX x).extractLsb' 4 4 = 0 := by revert x; decide
@[simp] theorem placeX_field_n (x : Reg) : (placeX x).extractLsb' 0 4 = 0 := by revert x; decide
@[simp] theorem placeX_field_nn (x : Reg) : (placeX x).extractLsb' 0 8 = 0 := by revert x; decide
@[simp] theorem placeY_field_x (y : Reg) : (placeY y).extractLsb' 8 4 = 0 := by revert y; decide
@[simp] theorem placeY_field_y (y : Reg) : (placeY y).extractLsb' 4 4 = .ofFin y := by revert y; decide
@[simp] theorem placeY_field_n (y : Reg) : (placeY y).extractLsb' 0 4 = 0 := by revert y; decide
@[simp] theorem placeN_field_x (n : RowCount) : (placeN n).extractLsb' 8 4 = 0 := by revert n; decide
@[simp] theorem placeN_field_y (n : RowCount) : (placeN n).extractLsb' 4 4 = 0 := by revert n; decide
@[simp] theorem placeN_field_n (n : RowCount) : (placeN n).extractLsb' 0 4 = .ofFin n := by revert n; decide
@[simp] theorem placeNN_field_x (nn : Byte) : (placeNN nn).extractLsb' 8 4 = 0 := by
  ext k; simp [placeNN]
@[simp] theorem placeNN_field_nn (nn : Byte) : (placeNN nn).extractLsb' 0 8 = nn := by
  apply BitVec.eq_of_toNat_eq; simp [placeNN]; omega
@[simp] theorem placeNNN_field_nnn (nnn : Addr12) : (placeNNN nnn).extractLsb' 0 12 = nnn := by
  apply BitVec.eq_of_toNat_eq; simp [placeNNN]; omega

/-- A part outside the mask is no part of what the mask compares. -/
theorem or_and_of_outside {a b m : Word} (hb : b &&& m = 0) : (a ||| b) &&& m = a &&& m := by
  rw [or_and, hb]
  exact BitVec.or_zero

/-- A pattern is zero in every field its mask does not compare. -/
theorem pattern_field_eq_zero {p m : Word} {s l : Nat} (hp : p &&& m = p) (hm : m.extractLsb' s l = 0#l) :
    p.extractLsb' s l = 0#l := by
  rw [← hp, BitVec.extractLsb'_and, hm, BitVec.and_zero]

section
variable {p : Word}

/-! In each, `c` is what the row builds and `p` its pattern; that the table holds the row is checked where `c` and `p`
are known. -/

theorem decodeWord_encoded_nnn (c : Addr12 → Instr) (nnn : Addr12)
    (hr : ⟨p, 0xF000, fun w => c (fieldNNN w)⟩ ∈ opcodeTable := by
      simp [opcodeTable, opcodeRowsLow, opcodeRowsAlu, opcodeRowsHigh]) :
    decodeWord (p ||| placeNNN nnn) = c nnn := by
  have hp : p &&& 0xF000 = p := pattern_within_mask _ hr
  have hnnn : p.extractLsb' 0 12 = 0 := pattern_field_eq_zero hp rfl
  rw [decodeWord_of_mem hr ((or_and_of_outside (placeNNN_outside_op nnn)).trans hp)]
  simp [fieldNNN, BitVec.extractLsb'_or, hnnn]

theorem decodeWord_encoded_xnn (c : Reg → Byte → Instr) (x : Reg) (nn : Byte)
    (hr : ⟨p, 0xF000, fun w => c (fieldX w) (fieldNN w)⟩ ∈ opcodeTable := by
      simp [opcodeTable, opcodeRowsLow, opcodeRowsAlu, opcodeRowsHigh]) :
    decodeWord (p ||| placeX x ||| placeNN nn) = c x nn := by
  have hp : p &&& 0xF000 = p := pattern_within_mask _ hr
  have hx : p.extractLsb' 8 4 = 0 := pattern_field_eq_zero hp rfl
  have hnn : p.extractLsb' 0 8 = 0 := pattern_field_eq_zero hp rfl
  rw [decodeWord_of_mem hr (by
    rw [or_and_of_outside (placeNN_outside_op nn), or_and_of_outside (placeX_outside_op x), hp])]
  simp [fieldX, fieldNN, BitVec.extractLsb'_or, hx, hnn]

theorem decodeWord_encoded_xy (c : Reg → Reg → Instr) (x y : Reg)
    (hr : ⟨p, 0xF00F, fun w => c (fieldX w) (fieldY w)⟩ ∈ opcodeTable := by
      simp [opcodeTable, opcodeRowsLow, opcodeRowsAlu, opcodeRowsHigh]) :
    decodeWord (p ||| placeX x ||| placeY y) = c x y := by
  have hp : p &&& 0xF00F = p := pattern_within_mask _ hr
  have hx : p.extractLsb' 8 4 = 0 := pattern_field_eq_zero hp rfl
  have hy : p.extractLsb' 4 4 = 0 := pattern_field_eq_zero hp rfl
  rw [decodeWord_of_mem hr (by
    rw [or_and_of_outside (placeY_outside_xy y), or_and_of_outside (placeX_outside_xy x), hp])]
  simp [fieldX, fieldY, BitVec.extractLsb'_or, hx, hy]

theorem decodeWord_encoded_x (c : Reg → Instr) (x : Reg)
    (hr : ⟨p, 0xF0FF, fun w => c (fieldX w)⟩ ∈ opcodeTable := by
      simp [opcodeTable, opcodeRowsLow, opcodeRowsAlu, opcodeRowsHigh]) :
    decodeWord (p ||| placeX x) = c x := by
  have hp : p &&& 0xF0FF = p := pattern_within_mask _ hr
  have hx : p.extractLsb' 8 4 = 0 := pattern_field_eq_zero hp rfl
  rw [decodeWord_of_mem hr ((or_and_of_outside (placeX_outside x)).trans hp)]
  simp [fieldX, BitVec.extractLsb'_or, hx]

end

/-- The one row with three operands. -/
theorem decodeWord_encode_drw (x y : Reg) (n : RowCount) :
    decodeWord (encode (.drw x y n)) = .drw x y n := by
  rw [decodeWord_of_mem (r := ⟨0xD000, 0xF000, fun w => .drw (fieldX w) (fieldY w) (fieldN w)⟩)
    (by simp [opcodeTable, opcodeRowsLow, opcodeRowsAlu, opcodeRowsHigh])
    (FixedBits.drw x y n _ _ rfl)]
  simp [encode, fieldX, fieldY, fieldN, BitVec.extractLsb'_or]

/-- Each constructor by its format; a no-op's word is its own encoding. -/
theorem decodeWord_encode : ∀ {i : Instr}, i.wf = true → decodeWord (encode i) = i
  | .cls, _ | .ret, _ => by decide
  | .jp nnn, _ => decodeWord_encoded_nnn .jp nnn
  | .call nnn, _ => decodeWord_encoded_nnn .call nnn
  | .ldI nnn, _ => decodeWord_encoded_nnn .ldI nnn
  | .jpV0 nnn, _ => decodeWord_encoded_nnn .jpV0 nnn
  | .seImm x nn, _ => decodeWord_encoded_xnn .seImm x nn
  | .sneImm x nn, _ => decodeWord_encoded_xnn .sneImm x nn
  | .ldImm x nn, _ => decodeWord_encoded_xnn .ldImm x nn
  | .addImm x nn, _ => decodeWord_encoded_xnn .addImm x nn
  | .rnd x nn, _ => decodeWord_encoded_xnn .rnd x nn
  | .seReg x y, _ => decodeWord_encoded_xy .seReg x y
  | .sneReg x y, _ => decodeWord_encoded_xy .sneReg x y
  | .ldReg x y, _ => decodeWord_encoded_xy .ldReg x y
  | .orReg x y, _ => decodeWord_encoded_xy .orReg x y
  | .andReg x y, _ => decodeWord_encoded_xy .andReg x y
  | .xorReg x y, _ => decodeWord_encoded_xy .xorReg x y
  | .addReg x y, _ => decodeWord_encoded_xy .addReg x y
  | .subReg x y, _ => decodeWord_encoded_xy .subReg x y
  | .subnReg x y, _ => decodeWord_encoded_xy .subnReg x y
  | .shr x y, _ => decodeWord_encoded_xy .shr x y
  | .shl x y, _ => decodeWord_encoded_xy .shl x y
  | .drw x y n, _ => decodeWord_encode_drw x y n
  | .skp x, _ => decodeWord_encoded_x .skp x
  | .sknp x, _ => decodeWord_encoded_x .sknp x
  | .ldVxDt x, _ => decodeWord_encoded_x .ldVxDt x
  | .ldDtVx x, _ => decodeWord_encoded_x .ldDtVx x
  | .ldStVx x, _ => decodeWord_encoded_x .ldStVx x
  | .ldVxK x, _ => decodeWord_encoded_x .ldVxK x
  | .addI x, _ => decodeWord_encoded_x .addI x
  | .ldF x, _ => decodeWord_encoded_x .ldF x
  | .ldB x, _ => decodeWord_encoded_x .ldB x
  | .storeRegs x, _ => decodeWord_encoded_x .storeRegs x
  | .loadRegs x, _ => decodeWord_encoded_x .loadRegs x
  | .nop _, h => (decodeWord_eq_nop_iff_unmatchedWord _).2 h

/-- Storing a word's two bytes and reading them back (20_memory.md R55). -/
theorem wordOfBytes_bytes (w : Word) : wordOfBytes (highByte w) (lowByte w) = w :=
  (BitVec.extractLsb'_append_extractLsb'_eq_extractLsb' rfl).trans BitVec.extractLsb'_eq_self

theorem decode_encodeBytes_append (i : Instr) (rest : List Byte) :
    decode (encodeBytes i ++ rest) = .ok (decodeWord (encode i), rest) := by
  rw [encodeBytes, List.cons_append, List.cons_append, List.nil_append, decode, wordOfBytes_bytes]

theorem decodeWord_of_encode_eq {i : Instr} {w : Word} (hi : i.wf = true) (hw : encode i = w) : decodeWord w = i :=
  hw ▸ decodeWord_encode hi

/-- Settles O1: the word carries the fixed bits of its row and each operand in its field, and the bytes are
the word's. -/
theorem decodeOfEncode : Obligations.DecodeOfEncode := by
  intro i rest hi
  have hword := decodeWord_encode hi
  exact ⟨hword, by rw [decode_encodeBytes_append, hword]⟩

/-- Settles O5: each word is the encoding of its instruction. -/
theorem wordsWrittenOut : Obligations.WordsWrittenOut := by
  unfold Obligations.WordsWrittenOut
  and_intros <;> exact decodeWord_of_encode_eq rfl rfl

end Sys2Proof
end

section
/-! A STEP and the instruction at `pc` (40_step_and_dispatch.md R90 to R93). -/

namespace Sys2Proof.Machine

/-- Two bytes decode as the word they make, high byte first (20_memory.md R55), and nothing is left over. -/
theorem decode_pair_eq_ok_iff {hi lo : Byte} {i : Instr} :
    decode [hi, lo] = .ok (i, []) ↔ decodeWord (wordOfBytes hi lo) = i := by
  simp [decode]

/-- Settles O6: the STEP runs the word at `pc`, whose decoding is that of its two bytes. -/
theorem stepRunsDecodedInstruction : Obligations.StepRunsDecodedInstruction := by
  intro s pressed released i hfetch hevent hdecode
  have hword : decodeWord (s.mem.wordAt s.pc.toNat) = i := decode_pair_eq_ok_iff.1 hdecode
  rw [step_of_canFetch hfetch hevent, hword]
  rfl

end Sys2Proof.Machine
end

section
/-! Control transfer (41_control_flow.md): where the jumps and the skips leave `pc`. -/

namespace Sys2Proof.Machine

@[simp] theorem literalAddr_toNat (nnn : Addr12) : (literalAddr nnn).toNat = nnn.toNat :=
  BitVec.toNat_setWidth_of_le (by decide)

@[simp] theorem byteToWord_toNat (b : Byte) : (byteToWord b).toNat = b.toNat :=
  BitVec.toNat_setWidth_of_le (by decide)

/-- The target of bnnn is the exact sum: it fits `pc` (R108). -/
theorem jumpTarget_toNat (nnn : Addr12) (b : Byte) :
    (literalAddr nnn + byteToWord b).toNat = nnn.toNat + b.toNat := by
  rw [BitVec.toNat_add_of_lt] <;> rw [literalAddr_toNat, byteToWord_toNat]
  omega

/-! Both targets are within the bound on `pc` (R109). -/

theorem literalAddr_le (nnn : Addr12) : (literalAddr nnn).toNat ≤ 0x10FE := by
  rw [literalAddr_toNat]
  omega

theorem jumpTarget_le (nnn : Addr12) (b : Byte) : (literalAddr nnn + byteToWord b).toNat ≤ 0x10FE := by
  rw [jumpTarget_toNat]
  omega

section
variable (a b : Byte) (s : State)

theorem State.skipIf_beq_pc : (s.skipIf (a == b)).pc = if a = b then s.pc + 2 else s.pc := by simp

theorem State.skipIf_bne_pc : (s.skipIf (a != b)).pc = if a = b then s.pc else s.pc + 2 := by simp

end

/-- Settles O21: the literal is the new `pc`. -/
theorem jumpSetsPc : Obligations.JumpSetsPc := fun nnn s =>
  ⟨rfl, _, rfl, literalAddr_toNat nnn, keepsAllBut_setPc _ s⟩

/-- Settles O24: both are the skip, under an equality and under its negation. -/
theorem literalSkips : Obligations.LiteralSkips := fun x nn s =>
  ⟨⟨rfl, _, rfl, s.skipIf_beq_pc (s.reg x) nn, keepsAllBut_skipIf _ s⟩,
   ⟨rfl, _, rfl, s.skipIf_bne_pc (s.reg x) nn, keepsAllBut_skipIf _ s⟩⟩

/-- Settles O25: both are the skip, under an equality and under its negation. -/
theorem registerSkips : Obligations.RegisterSkips := fun x y s =>
  ⟨⟨rfl, _, rfl, s.skipIf_beq_pc (s.reg x) (s.reg y), keepsAllBut_skipIf _ s⟩,
   ⟨rfl, _, rfl, s.skipIf_bne_pc (s.reg x) (s.reg y), keepsAllBut_skipIf _ s⟩⟩

end Sys2Proof.Machine
end

section
/-! The rasterizer in a state (44_display.md R142, R143). -/

namespace Sys2Proof.Machine

@[simp] theorem State.spriteBytes_length (y : Reg) (n : RowCount) (s : State) :
    (s.spriteBytes y n).length = s.drawnRows y n := by
  simp [State.spriteBytes]

/-- No row is drawn below the bottom edge. -/
theorem State.drawY_add_drawnRows_le {y : Reg} {n : RowCount} {s : State} (h : 0 < s.drawnRows y n) :
    s.drawY y + s.drawnRows y n ≤ s.params.height := by
  unfold State.drawnRows at *
  omega

/-- The draw paints the cells under the set bits of the drawn rows. -/
theorem State.drawSprite_paints {s : State} (h : s.fb.wf s.params = true) (x y : Reg) (n : RowCount) :
    Paints s.params (spriteCells s.params (s.drawX x) (s.drawY y) (s.spriteBytes y n)) ⟨s.fb, false⟩
      (s.drawSprite x y n) := by
  unfold State.drawSprite
  rcases Nat.eq_zero_or_pos (s.drawnRows y n) with hnone | hsome
  · rw [List.eq_nil_of_length_eq_zero ((s.spriteBytes_length y n).trans hnone)]
    exact Paints.nothing h fun _ ⟨_, hr, _⟩ => absurd hr (Nat.not_lt_zero _)
  · exact drawRows_paints h (by simpa using State.drawY_add_drawnRows_le hsome)

end Sys2Proof.Machine
end

section
/-! The invariant (10_state.md R40, 41_control_flow.md R109) along a step. An instruction starts from a stronger fact,
`State.Entered`, and ends in the invariant. -/

namespace Sys2Proof.Machine

/-- The invariant speaks of memory, the framebuffer, `pc`, the stack and the parameters only. -/
theorem State.Inv.congr {s t : State} (h : s.Inv) (hmem : t.mem = s.mem := by simp) (hfb : t.fb = s.fb := by simp)
    (hpc : t.pc = s.pc := by simp) (hstack : t.stack = s.stack := by simp)
    (hparams : t.params = s.params := by simp) : t.Inv where
  memory := hmem ▸ h.memory
  screen := hfb ▸ hparams ▸ h.screen
  pcBound := hpc ▸ h.pcBound
  stackBound := hstack ▸ h.stackBound
  stackEven := hstack ▸ hparams ▸ h.stackEven
  depthBound := by
    unfold State.depth
    exact hstack ▸ hparams ▸ h.depthBound

section
variable {s : State} (h : s.Inv)
include h

theorem State.Inv.setPc {a : Word} (ha : a.toNat ≤ 0x10FE) : (s.setPc a).Inv := { h with pcBound := ha }

theorem State.Inv.setFb {f : Screen} (hf : f.wf s.params = true) : (s.setFb f).Inv := { h with screen := hf }

theorem State.Inv.storeBytes {a : Nat} {bs : List Byte} (ha : a + bs.length ≤ 4096) : (s.storeBytes a bs).Inv :=
  { h with memory := State.storeBytes_wf h.memory ha }

/-- Dropping the top of the stack. -/
theorem State.Inv.setStack_tail {e : Word} {rest : List Word} (hs : s.stack = e :: rest) : (s.setStack rest).Inv :=
  have hmem : ∀ e' ∈ rest, e' ∈ s.stack := fun e' he => hs ▸ List.mem_cons_of_mem e he
  { h with
    stackBound := fun e' he => h.stackBound e' (hmem e' he)
    stackEven := fun hodd e' he => h.stackEven hodd e' (hmem e' he)
    depthBound := fun d hd => by
      have hdepth := h.depthBound d hd
      rw [State.depth, hs, List.length_cons] at hdepth
      exact Nat.le_of_succ_le hdepth }

/-- Pushing an entry within the entries' bounds, where the stack has room for it. -/
theorem State.Inv.push {e : Word} (hle : e.toNat ≤ 0x1000)
    (heven : s.params.oddPcPolicy = .fault → e.toNat % 2 = 0) (hroom : s.params.stackDepth ≠ some s.depth) :
    (s.push e).Inv :=
  { h with
    stackBound := List.forall_mem_cons.2 ⟨hle, h.stackBound⟩
    stackEven := fun hodd => List.forall_mem_cons.2 ⟨heven hodd, h.stackEven hodd⟩
    depthBound := fun d hd => by
      have hne : d ≠ s.depth := by rintro rfl; exact hroom hd
      exact Nat.lt_of_le_of_ne (h.depthBound d hd) hne.symm }

end

/-- An instruction about to run: the invariant, and `pc` past a fetch inside memory, of an admitted parity. -/
structure State.Entered (s : State) : Prop where
  inv : s.Inv
  pcAbove : 2 ≤ s.pc.toNat
  pcBelow : s.pc.toNat ≤ 0x1000
  pcEven : s.params.oddPcPolicy = .fault → s.pc.toNat % 2 = 0

/-- Where an odd `pc` faults, a fetch that does not fault for parity is at an even one (20_memory.md R57). -/
theorem State.pc_even {s : State} (hodd : s.oddPcFaults = false) (hpolicy : s.params.oddPcPolicy = .fault) :
    s.pc.toNat % 2 = 0 := by
  have hnot : ¬ (s.pc.toNat % 2 = 1 ∧ s.params.oddPcPolicy = .fault) := by
    rw [← State.oddPcFaults_iff, hodd]
    decide
  exact Nat.mod_two_ne_one.1 fun h => hnot ⟨h, hpolicy⟩

/-- The pre-increment of R92 after a fetch that succeeds. -/
theorem State.Inv.enterInstr {s : State} (h : s.Inv) (hodd : s.oddPcFaults = false) (hpc : s.pc.toNat ≤ 0x0FFE)
    (pressed released : BitVec 16) : (s.takeEvent.enterInstr pressed released).Entered := by
  have htoNat : (s.pc + 2).toNat = s.pc.toNat + 2 := by bv_omega
  exact {
    inv := (h.setPc (a := s.pc + 2) (by omega)).congr
    pcAbove := htoNat.symm ▸ Nat.le_add_left 2 _
    pcBelow := htoNat.symm ▸ Nat.add_le_add_right hpc 2
    pcEven := fun hpolicy => htoNat.symm ▸ (Nat.add_mod_right _ 2).trans (State.pc_even hodd hpolicy) }

/-- The outcome is a next state, and it meets the invariant. -/
def AnswersInv (o : Host.Outcome State Fault Refusal) : Prop := ∃ t, o = .next t ∧ t.Inv

theorem AnswersInv.next {t : State} (h : t.Inv) : AnswersInv (.next t) := ⟨t, rfl, h⟩

theorem AnswersInv.ite {c : Prop} [Decidable c] {o o' : Host.Outcome State Fault Refusal}
    (h : c → AnswersInv o) (h' : ¬ c → AnswersInv o') : AnswersInv (if c then o else o') := by
  split
  · exact h ‹c›
  · exact h' ‹¬ c›

section
variable {s : State} (h : s.Entered)
include h

/-- One step back, to the instruction's own address (R167, R176). -/
theorem State.Entered.setPc_back : (s.setPc (s.pc - 2)).Inv := by
  obtain ⟨hinv, habove, hbelow, -⟩ := h
  exact hinv.setPc (by bv_omega)

theorem State.Entered.raise (f : Fault) : AnswersInv (raise f s) := .next h.setPc_back.congr

theorem State.Entered.skipIf (c : Bool) : (s.skipIf c).Inv := by
  obtain ⟨hinv, -, hbelow, -⟩ := h
  cases c
  · exact hinv
  · exact hinv.setPc (a := s.pc + 2) (by bv_omega)

theorem execRet_inv : AnswersInv (execRet s) := by
  unfold execRet
  split
  · exact h.raise _
  · next e rest hs =>
    have he : e.toNat ≤ 0x1000 := h.inv.stackBound e (hs ▸ List.mem_cons_self)
    exact .next ((h.inv.setPc (a := e) (by omega)).setStack_tail hs)

theorem execLdVxK_inv (x : Reg) : AnswersInv (execLdVxK x s) := by
  unfold execLdVxK
  split
  · exact .next h.setPc_back
  · exact .next h.inv.congr

/-! The range check of a store bounds the bytes it stores (20_memory.md R56). -/

theorem execLdB_inv (x : Reg) : AnswersInv (execLdB x s) :=
  .ite (fun hin => .next (h.inv.storeBytes (by simpa [accessInRange_iff] using hin))) fun _ => h.raise _

theorem execStoreRegs_inv (x : Reg) : AnswersInv (execStoreRegs x s) :=
  .ite (fun hin =>
    have hstored := h.inv.storeBytes (bs := s.regsUpTo x) (by simpa [accessInRange_iff] using hin)
    .next hstored.congr) fun _ => h.raise _

/-- Every instruction, once entered, answers a next state that meets the invariant: those that write `pc`, the stack,
the framebuffer or memory, then those that write nothing the invariant speaks of. -/
theorem exec_inv : ∀ i : Instr, AnswersInv (exec i s)
  | .ret => execRet_inv h
  | .jp nnn => .next (h.inv.setPc (literalAddr_le nnn))
  | .call nnn => .ite (fun _ => h.raise _) fun hroom =>
      .next ((h.inv.push h.pcBelow h.pcEven hroom).setPc (literalAddr_le nnn))
  | .jpV0 nnn => .next (h.inv.setPc (jumpTarget_le nnn _))
  | .seImm _ _ | .sneImm _ _ | .seReg _ _ | .sneReg _ _ => .next (h.skipIf _)
  | .skp _ | .sknp _ => .ite (fun _ => h.raise _) fun _ => .next (h.skipIf _)
  | .ldVxK x => execLdVxK_inv h x
  | .cls => .next (h.inv.setFb (Screen.wf_nil _))
  | .drw x y n => .ite (fun _ => .next (h.inv.setFb (State.drawSprite_paints h.inv.screen x y n).wf).congr)
      fun _ => h.raise _
  | .ldB x => execLdB_inv h x
  | .storeRegs x => execStoreRegs_inv h x
  | .loadRegs _ => .ite (fun _ => .next h.inv.congr) fun _ => h.raise _
  | .addI _ => .ite (fun _ => h.raise _) fun _ => .next h.inv.congr
  | .ldImm _ _ | .addImm _ _ | .ldReg _ _ | .orReg _ _ | .andReg _ _ | .xorReg _ _ => .next h.inv.congr
  | .addReg _ _ | .subReg _ _ | .subnReg _ _ | .shr _ _ | .shl _ _ => .next h.inv.congr
  | .ldI _ | .ldF _ | .rnd _ _ | .ldVxDt _ | .ldDtVx _ | .ldStVx _ | .nop _ => .next h.inv.congr

end

/-- Settles O58: a `TICK` and a fault of the fetch leave alone what the invariant speaks of; any other STEP enters an
instruction, which ends in the invariant. -/
theorem invariantIsKept : Obligations.InvariantIsKept := by
  intro s t h hstep
  obtain ⟨-, ⟨-, rfl⟩ | ⟨pressed, released, -, ⟨-, rfl⟩ | ⟨-, -, rfl⟩ | ⟨hodd, hpc, hexec⟩⟩⟩ := step_cases hstep
  · exact h.congr
  · exact h.congr
  · exact h.congr
  · obtain ⟨t', hnext, hinv⟩ := exec_inv (h.enterInstr hodd hpc pressed released) _
    cases hexec.symm.trans hnext
    exact hinv

end Sys2Proof.Machine
end

section
/-! Register loads and the bitwise operations (42_alu.md R110 to R116): each is one write of `v[x]`. -/

namespace Sys2Proof.Machine

section
variable (x : Reg) (b : Byte) (s : State)

theorem State.setReg_reg_self : (s.setReg x b).reg x = b := by simp

/-- The number a register holds is that of the byte written. -/
theorem State.setReg_reg_toNat : ((s.setReg x b).reg x).toNat = b.toNat := by rw [State.setReg_reg_self]

/-- The bits a register holds are those of the byte written. -/
theorem State.setReg_reg_getLsbD (k : Nat) : ((s.setReg x b).reg x).getLsbD k = b.getLsbD k := by
  rw [State.setReg_reg_self]

end

/-- Settles O28: each writes `v[x]` alone, with the literal, the sum, which wraps, or the copied register. -/
theorem registerLoads : Obligations.RegisterLoads := fun x y nn s =>
  ⟨⟨rfl, _, rfl, s.setReg_reg_self x nn, keepsAllBut_setReg x _ s⟩,
   ⟨rfl, _, rfl, (s.setReg_reg_toNat x _).trans (BitVec.toNat_add (s.reg x) nn), keepsAllBut_setReg x _ s⟩,
   ⟨rfl, _, rfl, s.setReg_reg_self x (s.reg y), keepsAllBut_setReg x _ s⟩⟩

/-- Settles O29: each writes `v[x]` alone, with the operation's byte, whose bits are the operation's. -/
theorem logicInstructions : Obligations.LogicInstructions := fun x _ s =>
  ⟨⟨rfl, _, rfl, fun k _ => (s.setReg_reg_getLsbD x _ k).trans BitVec.getLsbD_or, keepsAllBut_setReg x _ s⟩,
   ⟨rfl, _, rfl, fun k _ => (s.setReg_reg_getLsbD x _ k).trans BitVec.getLsbD_and, keepsAllBut_setReg x _ s⟩,
   ⟨rfl, _, rfl, fun k _ => (s.setReg_reg_getLsbD x _ k).trans BitVec.getLsbD_xor, keepsAllBut_setReg x _ s⟩⟩

end Sys2Proof.Machine
end

section
/-! The literal and the glyph address in the index register (43_index_and_memory.md R131, R133). -/

namespace Sys2Proof.Machine

/-- The mask keeps the low nibble. -/
theorem lowNibble_toNat (b : Byte) : (b &&& 0x0F).toNat = b.toNat % 16 :=
  (BitVec.toNat_and b 0x0F).trans (Nat.and_two_pow_sub_one_eq_mod b.toNat 4)

/-- The glyph address is exact: the last glyph is at 0x09B (R133). -/
theorem glyphAddress_toNat (b : Byte) : (glyphAddress b).toNat = b.toNat % 16 * 5 + 0x50 := by
  have hnibble : (byteToWord (b &&& 0x0F)).toNat = b.toNat % 16 :=
    (byteToWord_toNat _).trans (lowNibble_toNat b)
  unfold glyphAddress
  bv_omega

/-- Settles O34: the literal is the new `i`. -/
theorem loadIndexLiteral : Obligations.LoadIndexLiteral := fun nnn s =>
  ⟨rfl, _, rfl, literalAddr_toNat nnn, keepsAllBut_setI _ s⟩

/-- Settles O35: the glyph address is the new `i`, and it does not wrap. -/
theorem locateGlyph : Obligations.LocateGlyph := fun x s =>
  ⟨rfl, _, rfl, glyphAddress_toNat (s.reg x), keepsAllBut_setI _ s⟩

end Sys2Proof.Machine
end

section
/-! Drawing the same sprite twice (44_display.md R144). -/

namespace Sys2Proof.Machine

theorem flagByte_eq_one_iff (c : Bool) : flagByte c = 1 ↔ c = true := by cases c <;> simp [flagByte]

theorem flagByte_eq_zero_iff (c : Bool) : flagByte c = 0 ↔ c = false := by cases c <;> simp [flagByte]

section
variable {p : Params} {D : Nat → Prop} {a b b' c : Canvas} (h : Paints p D a b) (h' : Paints p D b' c)
  (hfb : b'.fb = b.fb)
include h h' hfb

/-- Each cell painted is flipped twice. -/
theorem Paints.twice_fb (ha : a.fb.wf p = true) : c.fb = a.fb :=
  Screen.ext h'.wf ha fun k => by
    by_cases hk : D k
    · rw [h'.flips k hk, hfb, h.flips k hk, Bool.not_not]
    · rw [h'.keeps k hk, hfb, h.keeps k hk]

/-- After a painting that met no cell that was on, every cell painted is on. -/
theorem Paints.twice_hit (hb : b.hit = false) (hb' : b'.hit = false) : c.hit = true ↔ ∃ k, D k := by
  have hoff : ∀ k, D k → a.fb.isOn k = false := fun k hk =>
    Bool.eq_false_iff.2 fun hon => Bool.false_ne_true (hb.symm.trans (h.hit.2 (.inr ⟨k, hk, hon⟩)))
  have hon : ∀ k, D k → b'.fb.isOn k = true := fun k hk => by
    rw [hfb, h.flips k hk, hoff k hk, Bool.not_false]
  simp only [h'.hit, hb', Bool.false_eq_true, false_or]
  exact exists_congr fun k => and_iff_left_of_imp (hon k)

end

/-- The cells dxyn flips: those under the set bits of the drawn rows (R142). -/
def State.drawnCells (x y : Reg) (n : RowCount) (s : State) : Nat → Prop :=
  spriteCells s.params (s.drawX x) (s.drawY y) (s.spriteBytes y n)

/-- The state dxyn leaves when it does not fault (R142). -/
def State.afterDraw (x y : Reg) (n : RowCount) (s : State) : State :=
  ((s.setFb (s.drawSprite x y n).fb).setFlag (s.drawSprite x y n).hit).setChanged (some true)

section
variable {x y : Reg} {n : RowCount} {s : State}

theorem State.spriteBytes_getD {r : Nat} (hr : r < s.drawnRows y n) :
    (s.spriteBytes y n).getD r 0 = s.mem.read (s.i.toNat + r) := by
  simp [State.spriteBytes, List.getD_eq_getElem?_getD, hr]

theorem spriteCovers_iff {cx cy : Nat} : SpriteCovers x y n s cx cy = true ↔
    (cx < s.params.width ∧ cy < s.params.height ∧ s.drawX x ≤ cx ∧ cx < s.drawX x + 8 ∧
      s.drawY y ≤ cy ∧ cy < s.drawY y + n.val) ∧
    (s.mem.read (s.i.toNat + (cy - s.drawY y))).getLsbD (7 - (cx - s.drawX x)) = true :=
  (Bool.and_eq_true_iff).trans (and_congr_left' decide_eq_true_iff)

/-- A row is drawn when it is a row of the sprite and above the bottom edge (R143). -/
theorem State.lt_drawnRows_iff {r : Nat} :
    r < s.drawnRows y n ↔ r < n.val ∧ s.drawY y + r < s.params.height := by
  unfold State.drawnRows
  omega

/-- The cells dxyn flips are those the sprite covers. -/
theorem State.drawnCells_iff (k : Nat) :
    s.drawnCells x y n k ↔ ∃ cx cy, SpriteCovers x y n s cx cy = true ∧ k = cellAt s.params cx cy := by
  simp only [spriteCovers_iff]
  constructor
  · rintro ⟨r, hr, c, -, hc, hwidth, hbit, rfl⟩
    rw [State.spriteBytes_length] at hr
    rw [State.spriteBytes_getD hr] at hbit
    obtain ⟨hrow, hheight⟩ := State.lt_drawnRows_iff.1 hr
    refine ⟨_, _, ⟨⟨hwidth, hheight, by omega, by omega, by omega, by omega⟩, ?_⟩, rfl⟩
    simpa only [Nat.add_sub_cancel_left] using hbit
  · rintro ⟨cx, cy, ⟨⟨hwidth, hheight, hleft, hright, htop, hbottom⟩, hbit⟩, rfl⟩
    obtain ⟨c, rfl⟩ := Nat.exists_eq_add_of_le hleft
    obtain ⟨r, rfl⟩ := Nat.exists_eq_add_of_le htop
    have hr : r < s.drawnRows y n := State.lt_drawnRows_iff.2 ⟨by omega, hheight⟩
    refine ⟨r, by simpa using hr, c, Nat.zero_le c, by omega, hwidth, ?_, rfl⟩
    simpa only [State.spriteBytes_getD hr, Nat.add_sub_cancel_left] using hbit

/-- A sprite whose drawn rows lie in memory passes the range check (R143). -/
theorem SpriteInMemory.accessInRange (h : SpriteInMemory y n s) :
    accessInRange s.i.toNat (s.drawnRows y n) = true := by
  rw [accessInRange_iff]
  rcases Nat.eq_zero_or_pos (s.drawnRows y n) with hnone | hsome
  · exact .inl hnone
  · obtain ⟨hrow, hheight⟩ := State.lt_drawnRows_iff.1 (Nat.sub_one_lt_of_lt hsome)
    have hlast : s.i.toNat + (s.drawnRows y n - 1) < 4096 := h _ hrow hheight
    omega

theorem exec_drw_of_spriteInMemory (x : Reg) (h : SpriteInMemory y n s) :
    exec (.drw x y n) s = .next (s.afterDraw x y n) := if_pos h.accessInRange

theorem State.afterDraw_reg (k : Reg) (hk : k ≠ 15) : (s.afterDraw x y n).reg k = s.reg k := by
  simp [State.afterDraw, hk]

theorem State.afterDraw_flag : (s.afterDraw x y n).reg 15 = flagByte (s.drawSprite x y n).hit := by
  simp [State.afterDraw]

/-- The draw leaves the sprite where it was, unless it overwrites its own start (R144). -/
theorem SpriteInMemory.afterDraw (x : Reg) (hy : y ≠ 15) (h : SpriteInMemory y n s) :
    SpriteInMemory y n (s.afterDraw x y n) := by
  unfold SpriteInMemory
  rw [State.afterDraw_reg y hy]
  exact h

theorem State.afterDraw_drawnCells (hx : x ≠ 15) (hy : y ≠ 15) :
    (s.afterDraw x y n).drawnCells x y n = s.drawnCells x y n := by
  simp only [State.drawnCells, State.spriteBytes, State.drawnRows, State.drawX, State.drawY,
    State.afterDraw_reg x hx, State.afterDraw_reg y hy]
  rfl

end

/-- Settles O46: the second draw paints the cells of the first, so each flips back, and those that were off are met on. -/
theorem drawTwiceRestores : Obligations.DrawTwiceRestores := by
  intro x y n s t u hwf hmem hx hy hst htu
  cases hst.symm.trans (exec_drw_of_spriteInMemory x hmem)
  cases htu.symm.trans (exec_drw_of_spriteInMemory x (hmem.afterDraw x hy))
  have hfirst : Paints s.params (s.drawnCells x y n) ⟨s.fb, false⟩ (s.drawSprite x y n) :=
    State.drawSprite_paints hwf x y n
  have hsecond := State.drawSprite_paints (s := s.afterDraw x y n) hfirst.wf x y n
  rw [← State.drawnCells, State.afterDraw_drawnCells hx hy] at hsecond
  refine ⟨hfirst.twice_fb hsecond rfl hwf, ?_⟩
  rw [State.afterDraw_flag, State.afterDraw_flag, flagByte_eq_zero_iff, flagByte_eq_one_iff]
  intro hclear
  rw [hfirst.twice_hit hsecond rfl hclear rfl]
  simp only [State.drawnCells_iff]
  exact ⟨fun ⟨_, cx, cy, hcovers, _⟩ => ⟨cx, cy, hcovers⟩, fun ⟨cx, cy, hcovers⟩ => ⟨_, cx, cy, hcovers, rfl⟩⟩

end Sys2Proof.Machine
end

section
/-! The generator and cxnn (45_random.md R151 to R154). -/

namespace Sys2Proof.Machine

section
variable {w k : Nat} (x : BitVec w)

/-- A left shift-and-xor line takes only zero to zero: from bit 0 upward, each bit equals one below it or a zero shifted in. -/
theorem xor_shiftLeft_eq_zero_iff (hk : 0 < k) : x ^^^ x <<< k = 0 ↔ x = 0 := by
  refine ⟨fun h => ?_, fun h => by simp [h]⟩
  have hfix : x = x <<< k := BitVec.xor_eq_zero_iff.1 h
  have hbits : ∀ i, x.getLsbD i = false := fun i => by
    induction i using Nat.strong_induction_on with
    | _ i ih =>
      rw [hfix, BitVec.getLsbD_shiftLeft]
      by_cases hik : i < k
      · simp [hik]
      · simp [ih (i - k) (by omega)]
  exact BitVec.eq_of_getLsbD_eq fun i _ => by simp [hbits i]

theorem toNat_ushiftRight_eq_div (k : Nat) : (x >>> k).toNat = x.toNat / 2 ^ k :=
  (BitVec.toNat_ushiftRight x k).trans (Nat.shiftRight_eq_div_pow _ _)

/-- A right shift-and-xor line takes only zero to zero: a right shift makes any other word smaller. -/
theorem xor_ushiftRight_eq_zero_iff (hk : 0 < k) : x ^^^ x >>> k = 0 ↔ x = 0 := by
  refine ⟨fun h => ?_, fun h => by simp [h]⟩
  have hfix : x = x >>> k := BitVec.xor_eq_zero_iff.1 h
  have hdiv : x.toNat = x.toNat / 2 ^ k := (congrArg BitVec.toNat hfix).trans (toNat_ushiftRight_eq_div x k)
  rcases Nat.div_eq_self.1 hdiv.symm with hzero | hone
  · exact BitVec.eq_of_toNat_eq hzero
  · exact absurd hone (Nat.one_lt_two_pow hk.ne').ne'

/-- A left shift-and-xor line does not reach the bits below its distance. -/
theorem extractLsb'_xor_shiftLeft {l : Nat} (hl : l ≤ k) :
    (x ^^^ x <<< k).extractLsb' 0 l = x.extractLsb' 0 l := by
  ext i hi
  simp [show i < k by omega]

theorem shiftLeft_eq_ofNat_mul (k : Nat) : x <<< k = BitVec.ofNat w (x.toNat * 2 ^ k) :=
  congrArg (BitVec.ofNat w) (Nat.shiftLeft_eq x.toNat k)

theorem ushiftRight_eq_ofNat_div (k : Nat) : x >>> k = BitVec.ofNat w (x.toNat / 2 ^ k) := by
  rw [← toNat_ushiftRight_eq_div, BitVec.ofNat_toNat, BitVec.setWidth_eq]

end

/-- Settles O50: each of the three lines takes zero, and nothing else, to zero. -/
theorem generatorZeroState : Obligations.GeneratorZeroState := fun r =>
  calc xorshift r = 0
    _ ↔ xorshiftFirstTwo r = 0 := xor_shiftLeft_eq_zero_iff _ (by decide)
    _ ↔ r ^^^ r <<< 13 = 0 := xor_ushiftRight_eq_zero_iff _ (by decide)
    _ ↔ r = 0 := xor_shiftLeft_eq_zero_iff r (by decide)

/-- Settles O49: the third line shifts by more than a byte. -/
theorem randomTapIsImmaterial : Obligations.RandomTapIsImmaterial := fun _ =>
  extractLsb'_xor_shiftLeft _ (by decide)

/-- The three lines in arithmetic (R151; D16). -/
theorem xorshift_eq_of_lines {r a b c : RngWord} (ha : a = r ^^^ BitVec.ofNat 64 (r.toNat * 2 ^ 13))
    (hb : b = a ^^^ BitVec.ofNat 64 (a.toNat / 2 ^ 7)) (hc : c = b ^^^ BitVec.ofNat 64 (b.toNat * 2 ^ 17)) :
    xorshift r = c := by
  rw [← shiftLeft_eq_ofNat_mul] at ha hc
  rw [← ushiftRight_eq_ofNat_div] at hb
  subst ha hb hc
  rfl

theorem randomByte_eq_ofNat_mod (r : RngWord) : randomByte r = BitVec.ofNat 8 ((xorshift r).toNat % 256) := by
  apply BitVec.eq_of_toNat_eq
  simp [randomByte]

/-- The frame of cxnn: the generator, then `v[x]`. -/
theorem keepsAllBut_setRng_setReg (r : RngWord) (x : Reg) (b : Byte) (s : State) :
    KeepsAllBut (parts [.rng, .reg x]) s ((s.setRng r).setReg x b) :=
  ((keepsAllBut_setRng r s).mono (by simp +contextual)).trans ((keepsAllBut_setReg x b _).mono (by simp +contextual))

/-- Settles O48: the lines are the generator's, and cxnn is one write of the generator and one of `v[x]`. -/
theorem randomByteUnderMask : Obligations.RandomByteUnderMask := by
  intro x nn s a b c ha hb hc
  have hnext : xorshift s.rng = c := xorshift_eq_of_lines ha hb hc
  refine ⟨_, rfl, hnext, ?_, keepsAllBut_setRng_setReg _ x _ s⟩
  rw [State.setReg_reg_self, randomByte_eq_ofNat_mod, hnext]

end Sys2Proof.Machine
end

section
/-! The writers of the framebuffer, the stack and the generator (10_state.md R25, R28, 45_random.md R150). -/

namespace Sys2Proof.Machine

/-- From `s` to `t` the framebuffer, the stack and the generator stay, each unless `i` is one of its writers. -/
structure KeepsUnlessWriter (i : Instr) (s t : State) : Prop where
  screen : i ≠ .cls → (∀ x y n, i ≠ .drw x y n) → t.fb = s.fb := by intros; simp
  stack : (∀ a, i ≠ .call a) → i ≠ .ret → t.stack = s.stack := by intros; simp
  rng : (∀ x nn, i ≠ .rnd x nn) → t.rng = s.rng := by intros; simp

/-- A next state the outcome answers keeps what `i` is no writer of. -/
def AnswersKept (i : Instr) (s : State) (o : Host.Outcome State Fault Refusal) : Prop :=
  ∀ t, o = .next t → KeepsUnlessWriter i s t

section
variable {i : Instr} {s : State}

theorem AnswersKept.next {t : State} (h : KeepsUnlessWriter i s t) : AnswersKept i s (.next t) := by
  rintro _ ⟨⟩
  exact h

theorem AnswersKept.ite {c : Prop} [Decidable c] {o o' : Host.Outcome State Fault Refusal}
    (h : AnswersKept i s o) (h' : AnswersKept i s o') : AnswersKept i s (if c then o else o') := by
  split
  · exact h
  · exact h'

theorem AnswersKept.raise (f : Fault) : AnswersKept i s (raise f s) := .next {}

theorem execRet_kept : AnswersKept .ret s (execRet s) := by
  unfold execRet
  split
  · exact .raise _
  · exact .next { stack := fun _ hret => absurd rfl hret }

theorem execLdVxK_kept (x : Reg) : AnswersKept (.ldVxK x) s (execLdVxK x s) := by
  unfold execLdVxK
  split
  · exact .next {}
  · exact .next {}

end

/-- The five writers, then the instructions that write none of the three. -/
theorem exec_kept (s : State) : ∀ i : Instr, AnswersKept i s (exec i s)
  | .cls => .next { screen := fun hcls _ => absurd rfl hcls }
  | .drw x y n => .ite (.next { screen := fun _ hdrw => absurd rfl (hdrw x y n) }) (.raise _)
  | .call nnn => .ite (.raise _) (.next { stack := fun hcall _ => absurd rfl (hcall nnn) })
  | .ret => execRet_kept
  | .rnd x nn => .next { rng := fun hrnd => absurd rfl (hrnd x nn) }
  | .skp _ | .sknp _ | .addI _ => .ite (.raise _) (.next {})
  | .ldB _ | .storeRegs _ | .loadRegs _ => .ite (.next {}) (.raise _)
  | .ldVxK x => execLdVxK_kept x
  | .jp _ | .jpV0 _ | .seImm _ _ | .sneImm _ _ | .seReg _ _ | .sneReg _ _ => .next {}
  | .ldImm _ _ | .addImm _ _ | .ldReg _ _ | .orReg _ _ | .andReg _ _ | .xorReg _ _ => .next {}
  | .addReg _ _ | .subReg _ _ | .subnReg _ _ | .shr _ _ | .shl _ _ => .next {}
  | .ldI _ | .ldF _ | .ldVxDt _ | .ldDtVx _ | .ldStVx _ | .nop _ => .next {}

/-- Settles O47: case by case, an instruction updates one of the three only where it is a writer of it. -/
theorem screenStackGeneratorWriters : Obligations.ScreenStackGeneratorWriters := fun i s t hexec =>
  have ⟨hscreen, hstack, hrng⟩ := exec_kept s i t hexec
  ⟨hscreen, hstack, hrng⟩

end Sys2Proof.Machine
end

section
/-! The timers (46_keys_and_timers.md R163 to R165): each instruction is one write. -/

namespace Sys2Proof.Machine

/-- The tone sounds while `ST` is not 0 (10_state.md R27). -/
theorem State.soundActive_iff (s : State) : s.soundActive = true ↔ s.st ≠ 0 := bne_iff_ne

/-- Settles O52: fx07 writes `v[x]` alone, fx15 `DT` alone and fx18 `ST` alone. -/
theorem timerTransfers : Obligations.TimerTransfers := fun x s =>
  ⟨⟨rfl, _, rfl, s.setReg_reg_self x s.dt, keepsAllBut_setReg x _ s⟩,
   ⟨rfl, _, rfl, s.setDt_dt _, keepsAllBut_setDt _ s⟩,
   ⟨rfl, _, rfl, s.setSt_st _, State.soundActive_iff _, keepsAllBut_setSt _ s⟩⟩

end Sys2Proof.Machine
end

section
/-! The readers of the key arrays (46_keys_and_timers.md R160). `State.sampleKeys` replaces both arrays at once; where an
instruction reads one of them, a hypothesis says that the replacement is the array the state already holds. -/

namespace Sys2Proof.Machine

/-- Where `o` answers a next state, `o'` answers the same one, but for the key arrays `p` and `r`. -/
def AnswersSampled (p r : BitVec 16) (o o' : Host.Outcome State Fault Refusal) : Prop :=
  ∀ t, o = .next t → o' = .next (t.sampleKeys p r)

section
variable {p r : BitVec 16}

theorem AnswersSampled.next {t t' : State} (h : t' = t.sampleKeys p r) : AnswersSampled p r (.next t) (.next t') := by
  rintro _ ⟨⟩
  rw [h]

theorem AnswersSampled.ite {c : Prop} [Decidable c] {o₁ o₂ o₁' o₂' : Host.Outcome State Fault Refusal}
    (h₁ : AnswersSampled p r o₁ o₁') (h₂ : AnswersSampled p r o₂ o₂') :
    AnswersSampled p r (if c then o₁ else o₂) (if c then o₁' else o₂') := by
  split
  · exact h₁
  · exact h₂

end

section
variable (s : State) (p r : BitVec 16)

theorem State.skipIf_sampleKeys (c : Bool) : (s.sampleKeys p r).skipIf c = (s.skipIf c).sampleKeys p r := by
  cases c <;> rfl

theorem State.postIncrement_sampleKeys (x : Reg) :
    (s.sampleKeys p r).postIncrement x = (s.postIncrement x).sampleKeys p r := by
  unfold State.postIncrement
  rw [State.sampleKeys_q]
  split <;> rfl

theorem execRet_sampled : AnswersSampled p r (execRet s) (execRet (s.sampleKeys p r)) := by
  unfold execRet
  rw [State.sampleKeys_stack]
  split
  · exact .next rfl
  · exact .next rfl

/-! The three readers of a key array, the array they read being kept. -/

theorem execSkp_sampled (x : Reg) (hp : p = s.pressed) :
    AnswersSampled p r (execSkp x s) (execSkp x (s.sampleKeys p r)) := by
  subst hp
  exact .ite (.next rfl) (.next (s.skipIf_sampleKeys _ r _))

theorem execSknp_sampled (x : Reg) (hp : p = s.pressed) :
    AnswersSampled p r (execSknp x s) (execSknp x (s.sampleKeys p r)) := by
  subst hp
  exact .ite (.next rfl) (.next (s.skipIf_sampleKeys _ r _))

theorem execLdVxK_sampled (x : Reg) (hr : r = s.released) :
    AnswersSampled p r (execLdVxK x s) (execLdVxK x (s.sampleKeys p r)) := by
  have hkey : (s.sampleKeys p r).waitedKey = s.waitedKey := by rw [hr]; rfl
  unfold execLdVxK
  rw [hkey]
  split
  · exact .next rfl
  · exact .next rfl

/-- The three readers of a key array, then the instructions that read neither. -/
theorem exec_sampled : ∀ i : Instr, (∀ x, i = .skp x ∨ i = .sknp x → p = s.pressed) →
    (∀ x, i = .ldVxK x → r = s.released) → AnswersSampled p r (exec i s) (exec i (s.sampleKeys p r))
  | .skp x, hp, _ => execSkp_sampled s p r x (hp x (.inl rfl))
  | .sknp x, hp, _ => execSknp_sampled s p r x (hp x (.inr rfl))
  | .ldVxK x, _, hr => execLdVxK_sampled s p r x (hr x rfl)
  | .ret, _, _ => execRet_sampled s p r
  | .seImm _ _, _, _ | .sneImm _ _, _, _ | .seReg _ _, _, _ | .sneReg _ _, _, _ => .next (s.skipIf_sampleKeys p r _)
  | .storeRegs x, _, _ =>
    .ite (.next ((s.storeBytes s.i.toNat (s.regsUpTo x)).postIncrement_sampleKeys p r x)) (.next rfl)
  | .loadRegs x, _, _ => .ite (.next ((s.setV (s.loadedRegs x)).postIncrement_sampleKeys p r x)) (.next rfl)
  | .call _, _, _ | .drw _ _ _, _, _ | .addI _, _, _ | .ldB _, _, _ => .ite (.next rfl) (.next rfl)
  | .cls, _, _ | .jp _, _, _ | .jpV0 _, _, _ | .nop _, _, _ => .next rfl
  | .ldImm _ _, _, _ | .addImm _ _, _, _ | .ldReg _ _, _, _ => .next rfl
  | .orReg _ _, _, _ | .andReg _ _, _, _ | .xorReg _ _, _, _ => .next rfl
  | .addReg _ _, _, _ | .subReg _ _, _, _ | .subnReg _ _, _, _ | .shr _ _, _, _ | .shl _ _, _, _ => .next rfl
  | .ldI _, _, _ | .ldF _, _, _ | .rnd _ _, _, _ => .next rfl
  | .ldVxDt _, _, _ | .ldDtVx _, _, _ | .ldStVx _, _, _ => .next rfl

end

/-- An instruction leaves the arrays it was given: replaced by themselves in `s`, they are so in the result. -/
theorem exec_keys {i : Instr} {s t : State} (h : exec i s = .next t) :
    t.pressed = s.pressed ∧ t.released = s.released := by
  have hsame := exec_sampled s s.pressed s.released i (fun _ _ => rfl) (fun _ _ => rfl) t h
  have ht : t.sampleKeys s.pressed s.released = t := Host.Outcome.next.inj (hsame.symm.trans h)
  exact ⟨(congrArg State.pressed ht).symm, (congrArg State.released ht).symm⟩

/-- Settles O17: each array is replaced while the other is replaced by itself, which the instruction keeps. -/
theorem onlyKeyInstructionsReadKeys : Obligations.OnlyKeyInstructionsReadKeys := by
  intro i s t pressed released h
  obtain ⟨hpressed, hreleased⟩ := exec_keys h
  constructor
  · intro hskp hsknp
    calc exec i { s with pressed := pressed }
      _ = .next (t.sampleKeys pressed s.released) :=
        exec_sampled s pressed s.released i (fun x hi => (hi.elim (hskp x) (hsknp x)).elim) (fun _ _ => rfl) t h
      _ = .next { t with pressed := pressed } := by rw [← hreleased]; rfl
  · intro hwait
    calc exec i { s with released := released }
      _ = .next (t.sampleKeys s.pressed released) :=
        exec_sampled s s.pressed released i (fun _ _ => rfl) (fun x hi => (hwait x hi).elim) t h
      _ = .next { t with released := released } := by rw [← hpressed]; rfl

end Sys2Proof.Machine
end

section
/-! Encoding a decoded word (30_encoding.md R71, R82): the fixed bits and the operand fields are all its bits. -/

namespace Sys2Proof

section
variable (w : Word)

/-! An operand field put back in its place is that part of the word. -/

theorem placeX_fieldX : placeX (fieldX w) = w &&& 0x0F00 := by
  have hop : (placeX (fieldX w)).extractLsb' 12 4 = 0 := by generalize fieldX w = x; revert x; decide
  have hx : BitVec.ofFin (fieldX w) = w.extractLsb' 8 4 := rfl
  simp [word_eq_iff_digits, BitVec.extractLsb'_and, hop, hx]

theorem placeY_fieldY : placeY (fieldY w) = w &&& 0x00F0 := by
  have hop : (placeY (fieldY w)).extractLsb' 12 4 = 0 := by generalize fieldY w = y; revert y; decide
  have hy : BitVec.ofFin (fieldY w) = w.extractLsb' 4 4 := rfl
  simp [word_eq_iff_digits, BitVec.extractLsb'_and, hop, hy]

theorem placeN_fieldN : placeN (fieldN w) = w &&& 0x000F := by
  have hlow : w.toNat &&& 0x000F = w.toNat % 16 := Nat.and_two_pow_sub_one_eq_mod _ 4
  apply BitVec.eq_of_toNat_eq
  simp [placeN, fieldN, hlow]
  omega

theorem placeNN_fieldNN : placeNN (fieldNN w) = w &&& 0x00FF := by
  have hlow : w.toNat &&& 0x00FF = w.toNat % 256 := Nat.and_two_pow_sub_one_eq_mod _ 8
  apply BitVec.eq_of_toNat_eq
  simp [placeNN, fieldNN, hlow]
  omega

theorem placeNNN_fieldNNN : placeNNN (fieldNNN w) = w &&& 0x0FFF := by
  have hlow : w.toNat &&& 0x0FFF = w.toNat % 4096 := Nat.and_two_pow_sub_one_eq_mod _ 12
  apply BitVec.eq_of_toNat_eq
  simp [placeNNN, fieldNNN, hlow]
  omega

end

section
variable {w p : Word}

/-! A word is its fixed bits and its operands', one lemma for each format (R72). -/

theorem and_0xFFFF : w &&& 0xFFFF = w := BitVec.and_allOnes

theorem or_fields_nnn (h : w &&& 0xF000 = p) : p ||| placeNNN (fieldNNN w) = w := by
  rw [← h, placeNNN_fieldNNN, ← BitVec.and_or_distrib_left]
  exact and_0xFFFF

theorem or_fields_xnn (h : w &&& 0xF000 = p) : p ||| placeX (fieldX w) ||| placeNN (fieldNN w) = w := by
  rw [← h, placeX_fieldX, placeNN_fieldNN, ← BitVec.and_or_distrib_left, ← BitVec.and_or_distrib_left]
  exact and_0xFFFF

theorem or_fields_xyn (h : w &&& 0xF000 = p) :
    p ||| placeX (fieldX w) ||| placeY (fieldY w) ||| placeN (fieldN w) = w := by
  rw [← h, placeX_fieldX, placeY_fieldY, placeN_fieldN, ← BitVec.and_or_distrib_left, ← BitVec.and_or_distrib_left,
    ← BitVec.and_or_distrib_left]
  exact and_0xFFFF

theorem or_fields_xy (h : w &&& 0xF00F = p) : p ||| placeX (fieldX w) ||| placeY (fieldY w) = w := by
  rw [← h, placeX_fieldX, placeY_fieldY, ← BitVec.and_or_distrib_left, ← BitVec.and_or_distrib_left]
  exact and_0xFFFF

theorem or_fields_x (h : w &&& 0xF0FF = p) : p ||| placeX (fieldX w) = w := by
  rw [← h, placeX_fieldX, ← BitVec.and_or_distrib_left]
  exact and_0xFFFF

end

/-- Row by row: what a row builds of a word that matches it encodes back to the word. -/
theorem encode_build : ∀ r ∈ opcodeTable, ∀ w, w &&& r.mask = r.pattern → encode (r.build w) = w := by
  simp +contextual only [opcodeTable, opcodeRowsLow, opcodeRowsAlu, opcodeRowsHigh, List.forall_mem_append,
    List.forall_mem_cons, List.not_mem_nil, false_implies, implies_true, and_self, encode,
    and_0xFFFF, or_fields_nnn, or_fields_xnn, or_fields_xyn, or_fields_xy, or_fields_x]

theorem build_wf : ∀ r ∈ opcodeTable, ∀ w, (r.build w).wf = true := by
  simp [opcodeTable, opcodeRowsLow, opcodeRowsAlu, opcodeRowsHigh, Instr.wf]

/-- Settles O2: a word matches a row, whose format keeps every bit, or is an unmatched word, which the no-op carries. -/
theorem encodeOfDecode : Obligations.EncodeOfDecode := by
  intro w
  by_cases hrow : ∃ r ∈ opcodeTable, w &&& r.mask = r.pattern
  · obtain ⟨r, hr, hmatch⟩ := hrow
    rw [decodeWord_of_mem hr hmatch]
    exact ⟨build_wf r hr w, encode_build r hr w hmatch⟩
  · have hnop : decodeWord w = .nop w := (decodeWord_eq_nop_iff w).2 fun r hr hmatch => hrow ⟨r, hr, hmatch⟩
    rw [hnop]
    exact ⟨(decodeWord_eq_nop_iff_unmatchedWord w).1 hnop, rfl⟩

/-- A word stands for a draw exactly when its top digit is D (30_encoding.md R76). -/
theorem decodeWord_eq_drw_iff (w : Word) : (∃ x y n, decodeWord w = .drw x y n) ↔ w &&& 0xF000 = 0xD000 := by
  constructor
  · rintro ⟨x, y, n, hdrw⟩
    rw [← (encodeOfDecode w).2, hdrw]
    exact Laws.FixedBits.drw x y n _ _ rfl
  · intro hword
    exact ⟨_, _, _, decodeWord_of_mem (r := ⟨0xD000, 0xF000, fun w => .drw (fieldX w) (fieldY w) (fieldN w)⟩)
      (by simp [opcodeTable, opcodeRowsLow, opcodeRowsAlu, opcodeRowsHigh]) hword⟩

end Sys2Proof
end

section
/-! Everything an instruction can do, said once: it raises a fault, or it changes only the parts it writes. -/

namespace Sys2Proof.Machine

/-- The parts an instruction can change when it does not fault (40_step_and_dispatch.md to 46_keys_and_timers.md). -/
def writes : Instr → Part → Prop
  | .nop _ => parts []
  | .jp _ | .jpV0 _ => parts [.pc]
  | .seImm _ _ | .sneImm _ _ | .seReg _ _ | .sneReg _ _ | .skp _ | .sknp _ => parts [.pc]
  | .ret | .call _ => parts [.pc, .stack]
  | .ldImm x _ | .addImm x _ | .ldReg x _ | .orReg x _ | .andReg x _ | .xorReg x _ | .ldVxDt x => parts [.reg x]
  | .addReg x _ | .subReg x _ | .subnReg x _ | .shr x _ | .shl x _ => parts [.reg x, .reg 15]
  | .rnd x _ => parts [.rng, .reg x]
  | .ldVxK x => parts [.pc, .reg x]
  | .ldDtVx _ => parts [.delayTimer]
  | .ldStVx _ => parts [.soundTimer]
  | .ldI _ | .addI _ | .ldF _ => parts [.index]
  | .ldB _ => fun p => ∃ a, p = .byte a
  | .storeRegs _ => fun p => (∃ a, p = .byte a) ∨ p = .index
  | .loadRegs x => fun p => (∃ k, k ≤ x ∧ p = .reg k) ∨ p = .index
  | .cls => fun p => ∃ c, p = .cell c
  | .drw _ _ _ => fun p => (∃ c, p = .cell c) ∨ p = .reg 15 ∨ p = .changed

/-- From `s` to `t` only the parts `i` writes change. Where `i` stores nothing, memory is the same list of bytes too. -/
structure Ran (i : Instr) (s t : State) : Prop where
  frame : KeepsAllBut (writes i) s t
  memory : (∀ x, i ≠ .ldB x) → (∀ x, i ≠ .storeRegs x) → t.mem = s.mem := by intros; simp

/-- The outcome is a fault of `i`'s own, or a next state in which `i` has run. -/
def RaisesOrRuns (i : Instr) (s : State) (o : Host.Outcome State Fault Refusal) : Prop :=
  (i.canFault = true ∧ ∃ f, o = raise f s) ∨ ∃ t, o = .next t ∧ Ran i s t

/-! Frames of two writes, and of what fx33, fx55, fx65 and dxyn write. -/

theorem KeepsAllBut.trans₂ {w w' : Part → Prop} {s t u : State} (h : KeepsAllBut w s t) (h' : KeepsAllBut w' t u) :
    KeepsAllBut (fun p => w p ∨ w' p) s u :=
  (h.mono fun _ => .inl).trans (h'.mono fun _ => .inr)

theorem keepsAllBut_setPc_setStack (a : Word) (k : List Word) (s : State) :
    KeepsAllBut (parts [.pc, .stack]) s ((s.setPc a).setStack k) :=
  ((keepsAllBut_setPc a s).trans₂ (keepsAllBut_setStack k _)).mono (by simp)

theorem keepsAllBut_setMem (m : Memory) (s : State) : KeepsAllBut (fun p => ∃ a, p = .byte a) s (s.setMem m) := by
  intro p hp; cases p <;> simp_all [Part.same]

theorem State.setV_loadedRegs_reg (x : Reg) (s : State) (k : Reg) :
    (s.setV (s.loadedRegs x)).reg k = if k ≤ x then s.mem.read (s.i.toNat + k.val) else s.reg k :=
  State.loadedRegs_get x s k

theorem keepsAllBut_setV_loadedRegs (x : Reg) (s : State) :
    KeepsAllBut (fun p => ∃ k, k ≤ x ∧ p = .reg k) s (s.setV (s.loadedRegs x)) := by
  intro p hp
  cases p with
  | reg k => exact (State.setV_loadedRegs_reg x s k).trans (if_neg fun hk => hp ⟨k, hk, rfl⟩)
  | _ => simp [Part.same]

theorem keepsAllBut_setV_postIncrement (x : Reg) (s : State) :
    KeepsAllBut (fun p => (∃ k, k ≤ x ∧ p = .reg k) ∨ p = .index) s ((s.setV (s.loadedRegs x)).postIncrement x) :=
  ((keepsAllBut_setV_loadedRegs x s).trans₂ (keepsAllBut_postIncrement x _)).mono (by simp)

/-- The frame of dxyn: its flag, `CHANGED` and the cells its picture flips. -/
theorem State.keepsAllBut_afterDraw (x y : Reg) (n : RowCount) (s : State) :
    KeepsAllBut (fun p => (∃ c, p = .cell c ∧ (s.drawSprite x y n).fb.isOn c ≠ s.fb.isOn c) ∨ p = .reg 15 ∨
      p = .changed) s (s.afterDraw x y n) :=
  ((keepsAllBut_setFb _ s).trans₂ ((keepsAllBut_setReg flagReg _ _).trans₂ (keepsAllBut_setChanged _ _))).mono
    (by simp [flagReg])

section
variable {i : Instr} {s : State}

theorem RaisesOrRuns.raise (f : Fault) (hi : i.canFault = true := by rfl) : RaisesOrRuns i s (raise f s) :=
  .inl ⟨hi, f, rfl⟩

theorem RaisesOrRuns.next {t : State} (h : Ran i s t) : RaisesOrRuns i s (.next t) := .inr ⟨t, rfl, h⟩

theorem RaisesOrRuns.ite {c : Prop} [Decidable c] {o o' : Host.Outcome State Fault Refusal}
    (h : RaisesOrRuns i s o) (h' : RaisesOrRuns i s o') : RaisesOrRuns i s (if c then o else o') := by
  split
  · exact h
  · exact h'

end

section
variable (s : State)

theorem execRet_raisesOrRuns : RaisesOrRuns .ret s (execRet s) := by
  unfold execRet
  split
  · exact .raise _
  · exact .next { frame := keepsAllBut_setPc_setStack _ _ s }

theorem execLdVxK_raisesOrRuns (x : Reg) : RaisesOrRuns (.ldVxK x) s (execLdVxK x s) := by
  unfold execLdVxK
  split
  · exact .next { frame := (keepsAllBut_setPc _ s).mono (by simp +contextual [writes]) }
  · exact .next { frame := (keepsAllBut_setReg x _ s).mono (by simp +contextual [writes]) }

/-- Instruction by instruction, in the order of `writes`. -/
theorem exec_raisesOrRuns : ∀ i : Instr, RaisesOrRuns i s (exec i s)
  | .nop _ => .next { frame := KeepsAllBut.refl _ s }
  | .ret => execRet_raisesOrRuns s
  | .call nnn => .ite (.raise _) (.next { frame := keepsAllBut_setPc_setStack (literalAddr nnn) (s.pc :: s.stack) s })
  | .jp _ | .jpV0 _ => .next { frame := keepsAllBut_setPc _ s }
  | .seImm _ _ | .sneImm _ _ | .seReg _ _ | .sneReg _ _ => .next { frame := keepsAllBut_skipIf _ s }
  | .skp _ | .sknp _ => .ite (.raise _) (.next { frame := keepsAllBut_skipIf _ s })
  | .ldVxK x => execLdVxK_raisesOrRuns s x
  | .ldImm x _ | .addImm x _ | .ldReg x _ | .orReg x _ | .andReg x _ | .xorReg x _ | .ldVxDt x =>
    .next { frame := keepsAllBut_setReg x _ s }
  | .addReg x _ | .subReg x _ | .subnReg x _ | .shr x _ | .shl x _ =>
    .next { frame := keepsAllBut_setResultAndFlag x _ _ s }
  | .rnd x _ => .next { frame := keepsAllBut_setRng_setReg _ x _ s }
  | .ldDtVx _ => .next { frame := keepsAllBut_setDt _ s }
  | .ldStVx _ => .next { frame := keepsAllBut_setSt _ s }
  | .ldI _ | .ldF _ => .next { frame := keepsAllBut_setI _ s }
  | .addI _ => .ite (.raise _) (.next { frame := keepsAllBut_setI _ s })
  | .ldB x => .ite (.next { frame := keepsAllBut_setMem _ s, memory := fun h _ => absurd rfl (h x) }) (.raise _)
  | .storeRegs x => .ite (.next
      { frame := ((keepsAllBut_setMem _ s).trans₂ (keepsAllBut_postIncrement x _)).mono (by simp +contextual [writes]),
        memory := fun _ h => absurd rfl (h x) }) (.raise _)
  | .loadRegs x => .ite (.next { frame := keepsAllBut_setV_postIncrement x s }) (.raise _)
  | .cls => .next { frame := (keepsAllBut_setFb _ s).mono fun _ ⟨c, hc, _⟩ => ⟨c, hc⟩ }
  | .drw x y n => .ite (.next
      { frame := (s.keepsAllBut_afterDraw x y n).mono fun _ => Or.imp_left fun ⟨c, hc, _⟩ => ⟨c, hc⟩ }) (.raise _)

end

/-- What an instruction answers: the state of before, latched, or one in which it has run. -/
theorem exec_inversion {i : Instr} {s t : State} (h : exec i s = .next t) :
    (i.canFault = true ∧ ∃ f, t = (s.setPc (s.pc - 2)).latch f) ∨ Ran i s t := by
  rcases exec_raisesOrRuns s i with ⟨hi, f, hraise⟩ | ⟨t', hnext, hran⟩
  · exact .inl ⟨hi, f, (Host.Outcome.next.inj (hraise.symm.trans h)).symm⟩
  · cases hnext.symm.trans h
    exact .inr hran

/-! Who writes which part. -/

section
variable {i : Instr}

theorem not_writes_latch : ¬ writes i .latch := by cases i <;> simp [writes]

theorem not_writes_quirk : ¬ writes i .quirk := by cases i <;> simp [writes]

theorem not_writes_params : ¬ writes i .params := by cases i <;> simp [writes]

theorem not_writes_host : ¬ writes i .host := by cases i <;> simp [writes]

theorem transfersControl_of_writes_pc (h : writes i .pc) : i.transfersControl = true := by
  cases i <;> simp_all [writes, Instr.transfersControl]

theorem eq_drw_of_writes_changed (h : writes i .changed) : ∃ x y n, i = .drw x y n := by
  cases i <;> simp_all [writes]

theorem eq_ldDtVx_of_writes_delayTimer (h : writes i .delayTimer) : ∃ x, i = .ldDtVx x := by
  cases i <;> simp_all [writes]

theorem eq_ldStVx_of_writes_soundTimer (h : writes i .soundTimer) : ∃ x, i = .ldStVx x := by
  cases i <;> simp_all [writes]

theorem writesFlag_or_namesDest_of_writes_reg {k : Reg} (h : writes i (.reg k)) :
    i.writesFlag = true ∨ i.namesDest k = true := by
  cases i <;> simp_all [writes, Instr.writesFlag, Instr.namesDest]

end

/-- Settles O11: a fault too is answered by a next state. -/
theorem everyInstructionAnswersNext : Obligations.EveryInstructionAnswersNext := by
  intro i s
  obtain ⟨-, f, hraise⟩ | ⟨t, hnext, -⟩ := exec_raisesOrRuns s i
  · exact ⟨_, hraise⟩
  · exact ⟨t, hnext⟩

/-- Settles O12: an instruction that does not raise leaves the latch alone. -/
theorem onlyListedInstructionsFault : Obligations.OnlyListedInstructionsFault := by
  intro i s t hi h
  obtain ⟨hfaults, -⟩ | hran := exec_inversion h
  · cases hi.symm.trans hfaults
  · exact hran.frame .latch not_writes_latch

/-- Settles O15: fx15 alone writes the delay timer, fx18 alone the sound timer, and a fault neither. -/
theorem onlyTheHostDecrementsTimers : Obligations.OnlyTheHostDecrementsTimers := by
  intro i s t h
  obtain ⟨-, f, rfl⟩ | hran := exec_inversion h
  · exact ⟨.inl rfl, .inl rfl⟩
  · constructor
    · by_cases hw : writes i .delayTimer
      · obtain ⟨x, rfl⟩ := eq_ldDtVx_of_writes_delayTimer hw
        cases h
        exact .inr ⟨x, rfl, rfl⟩
      · exact .inl (hran.frame _ hw)
    · by_cases hw : writes i .soundTimer
      · obtain ⟨x, rfl⟩ := eq_ldStVx_of_writes_soundTimer hw
        cases h
        exact .inr ⟨x, rfl, rfl⟩
      · exact .inl (hran.frame _ hw)

/-! The flag is written last (42_alu.md R113). -/

theorem State.setResultAndFlag_flag (x : Reg) (r : Byte) (c : Bool) (s : State) :
    (s.setResultAndFlag x r c).reg 15 = flagByte c := by simp

theorem State.setResultAndFlag_result {x : Reg} (hx : x ≠ 15) (r : Byte) (c : Bool) (s : State) :
    (s.setResultAndFlag x r c).reg x = r := by simp [hx]

/-- A draw that does not fault has drawn. -/
theorem eq_afterDraw {x y : Reg} {n : RowCount} {s t : State} (h : exec (.drw x y n) s = .next t)
    (hfault : t.fault = none) : t = s.afterDraw x y n := by
  change execDrw x y n s = .next t at h
  unfold execDrw at h
  split at h
  · cases h; rfl
  · cases h; cases hfault

/-- A flag writer that does not fault leaves a flag in `v[15]`. -/
theorem exec_flag {i : Instr} {s t : State} (hi : i.writesFlag = true) (h : exec i s = .next t)
    (hfault : t.fault = none) : ∃ c, t.reg 15 = flagByte c := by
  cases i with
  | addReg | subReg | subnReg | shr | shl => cases h; exact ⟨_, State.setResultAndFlag_flag ..⟩
  | drw x y n => rw [eq_afterDraw h hfault]; exact ⟨_, s.afterDraw_flag⟩
  | _ => cases hi

/-- Settles O33: `v[15]` is written by its flag writers and by name, and a flag is 0 or 1. -/
theorem flagRegisterWriters : Obligations.FlagRegisterWriters := by
  intro i s t h
  constructor
  · intro hchanged
    obtain ⟨-, f, rfl⟩ | hran := exec_inversion h
    · exact absurd rfl hchanged
    · exact writesFlag_or_namesDest_of_writes_reg (not_imp_comm.1 (hran.frame (.reg 15)) hchanged)
  · intro hi hfault
    obtain ⟨c, hc⟩ := exec_flag hi h hfault
    rw [hc]
    exact flagByte_zero_or_one c

/-- Settles O43: memory and `i` change only where an instruction that writes them runs. -/
theorem memoryAndIndexWriters : Obligations.MemoryAndIndexWriters := by
  intro i s t h
  obtain ⟨-, f, rfl⟩ | hran := exec_inversion h
  · exact ⟨fun _ _ => rfl, fun _ _ _ _ _ => rfl⟩
  · refine ⟨hran.memory, fun hldI haddI hldF hstore hload => hran.frame .index ?_⟩
    cases i <;> simp_all [writes]

end Sys2Proof.Machine
end

section
/-! The step and its events (40_step_and_dispatch.md R90 to R96, 60_exceptions.md R176, R177). -/

namespace Sys2Proof.Machine

/-! What a step answers, case by case (R90). -/

section
variable {s : State}

theorem step_of_latched {f : Fault} (hfault : s.fault = some f) : step s = .fault f := by
  unfold step
  rw [hfault]

theorem step_of_tick (hfault : s.fault = none) (hevent : s.nextEvent = .tick) : step s = .next s.takeEvent.tick := by
  unfold step
  rw [hfault, hevent]

theorem step_of_fetch_error {pressed released : BitVec 16} {f : Fault} (hfault : s.fault = none)
    (hevent : s.nextEvent = .step pressed released) (hfetch : s.fetch = .error f) :
    step s = .next ((s.takeEvent.sampleKeys pressed released).latch f) := by
  unfold step
  rw [hfault, hevent]
  simp only [stepInstr, State.takeEvent_fetch, hfetch]

end

/-- With `pc` back at its own address, an instruction has entered nothing but the sampled keys and `CHANGED`. -/
theorem enterInstr_setPc_back {a : Word} (pressed released : BitVec 16) (s : State) (ha : a = s.pc) :
    (s.enterInstr pressed released).setPc a = (s.sampleKeys pressed released).setChanged (some false) := by
  rw [ha]
  rfl

/-- A fault raised in an instruction leaves what a fault of the fetch leaves (60_exceptions.md R176). -/
theorem enterInstr_back_latch (pressed released : BitVec 16) (f : Fault) (s : State) :
    ((s.enterInstr pressed released).setPc ((s.enterInstr pressed released).pc - 2)).latch f =
      (s.sampleKeys pressed released).latch f := by
  rw [State.enterInstr_pc, enterInstr_setPc_back pressed released s (pc_add_two_sub_two s.pc)]
  rfl

/-- What a STEP can do: latch a fault, or run the instruction at `pc`. -/
theorem step_inversion {s t : State} {pressed released : BitVec 16} (hevent : s.nextEvent = .step pressed released)
    (h : step s = .next t) :
    (∃ f, t = (s.takeEvent.sampleKeys pressed released).latch f) ∨
    (exec (decodeWord (s.mem.wordAt s.pc.toNat)) (s.takeEvent.enterInstr pressed released) = .next t ∧
      Ran (decodeWord (s.mem.wordAt s.pc.toNat)) (s.takeEvent.enterInstr pressed released) t) := by
  obtain ⟨-, ⟨htick, -⟩ | ⟨p, r, hstep, hcases⟩⟩ := step_cases h
  · cases hevent.symm.trans htick
  · cases hevent.symm.trans hstep
    rcases hcases with ⟨-, ht⟩ | ⟨-, -, ht⟩ | ⟨-, -, hexec⟩
    · exact .inl ⟨_, ht⟩
    · exact .inl ⟨_, ht⟩
    · obtain ⟨-, f, ht⟩ | hran := exec_inversion hexec
      · exact .inl ⟨f, ht.trans (enterInstr_back_latch ..)⟩
      · exact .inr ⟨hexec, hran⟩

/-- A STEP without a fault has run its instruction. -/
theorem step_ran {s t : State} {pressed released : BitVec 16} (hevent : s.nextEvent = .step pressed released)
    (h : step s = .next t) (hfault : t.fault = none) :
    exec (decodeWord (s.mem.wordAt s.pc.toNat)) (s.takeEvent.enterInstr pressed released) = .next t ∧
      Ran (decodeWord (s.mem.wordAt s.pc.toNat)) (s.takeEvent.enterInstr pressed released) t := by
  obtain ⟨f, rfl⟩ | hran := step_inversion hevent h
  · cases hfault
  · exact hran

/-- A step that ends with the latch set was a STEP and did no more than latch the fault. -/
theorem step_latched {s t : State} {f : Fault} (h : step s = .next t) (hf : t.fault = some f) :
    ∃ pressed released, t = (s.takeEvent.sampleKeys pressed released).latch f := by
  obtain ⟨hnone, ⟨-, rfl⟩ | ⟨pressed, released, hevent, -⟩⟩ := step_cases h
  · cases hnone.symm.trans hf
  · obtain ⟨g, rfl⟩ | ⟨-, hran⟩ := step_inversion hevent h
    · cases hf
      exact ⟨pressed, released, rfl⟩
    · have hsame : t.fault = s.fault := hran.frame .latch not_writes_latch
      cases hf.symm.trans (hsame.trans hnone)

/-! The frames of a step's own parts. -/

theorem keepsAllBut_takeEvent (s : State) : KeepsAllBut (parts [.host]) s s.takeEvent := by
  intro p hp; cases p <;> simp_all [Part.same]

theorem keepsAllBut_sampleKeys (pressed released : BitVec 16) (s : State) :
    KeepsAllBut (parts [.keys]) s (s.sampleKeys pressed released) := by
  intro p hp; cases p <;> simp_all [Part.same]

theorem keepsAllBut_enterInstr (pressed released : BitVec 16) (s : State) :
    KeepsAllBut (parts [.keys, .pc, .changed]) s (s.enterInstr pressed released) := by
  intro p hp; cases p <;> simp_all [Part.same]

theorem keepsAllBut_tick (s : State) : KeepsAllBut (parts [.delayTimer, .soundTimer]) s s.tick := by
  intro p hp; cases p <;> simp_all [Part.same]

/-- Settles O10: a STEP that faults leaves the latched fault, the sampled keys and the taken event, and nothing else. -/
theorem faultingStepIsPrecise : Obligations.FaultingStepIsPrecise := by
  intro s t f _ h hf
  obtain ⟨pressed, released, rfl⟩ := step_latched h hf
  exact ((keepsAllBut_takeEvent s).trans₂ ((keepsAllBut_sampleKeys pressed released _).trans₂
    (keepsAllBut_latch f _))).mono (by simp +contextual)

/-- Settles O13: `CHANGED` enters as 0, a draw, whose word has the top digit D, sets it, and a fault takes it away. -/
theorem changedExactlyForDraw : Obligations.ChangedExactlyForDraw := by
  intro s t pressed released _ hevent h
  constructor
  · intro hfault
    obtain ⟨hexec, hran⟩ := step_ran hevent h hfault
    have hiff := decodeWord_eq_drw_iff (s.mem.wordAt s.pc.toNat)
    by_cases hdrw : ∃ x y n, decodeWord (s.mem.wordAt s.pc.toNat) = .drw x y n
    · rw [beq_iff_eq.2 (hiff.1 hdrw)]
      obtain ⟨x, y, n, hi⟩ := hdrw
      rw [hi] at hexec
      rw [eq_afterDraw hexec hfault]
      rfl
    · rw [beq_eq_false_iff_ne.2 (mt hiff.2 hdrw)]
      exact hran.frame .changed (mt eq_drw_of_writes_changed hdrw)
  · intro hfault
    obtain ⟨f, hf⟩ := Option.ne_none_iff_exists'.1 hfault
    obtain ⟨_, _, rfl⟩ := step_latched h hf
    rfl

/-- A skip raises its fault, or skips or not. -/
theorem exec_skips {i : Instr} (hi : i.skips = true) (s : State) :
    (∃ f, exec i s = raise f s) ∨ ∃ c, exec i s = .next (s.skipIf c) := by
  cases i with
  | seImm | sneImm | seReg | sneReg => exact .inr ⟨_, rfl⟩
  | skp x | sknp x =>
    by_cases hkey : 15 < (s.reg x).toNat
    · exact .inl ⟨_, if_pos hkey⟩
    · exact .inr ⟨_, if_neg hkey⟩
  | _ => cases hi

/-- A skip that does not fault leaves `pc` at the next instruction or 2 further. -/
theorem skips_pc {i : Instr} {s t : State} (hi : i.skips = true) (h : exec i s = .next t) (hfault : t.fault = none) :
    t.pc = s.pc ∨ t.pc = s.pc + 2 := by
  obtain ⟨f, hraise⟩ | ⟨c, hnext⟩ := exec_skips hi s
  · cases h.symm.trans hraise
    cases hfault
  · cases h.symm.trans hnext
    cases c
    · exact .inl rfl
    · exact .inr rfl

/-- Settles O14: an instruction that does not write `pc` leaves it at the pre-increment, a skip there or 2 further. -/
theorem stepAdvancesByTwoOrSkips : Obligations.StepAdvancesByTwoOrSkips := by
  intro s t pressed released _ hevent h hfault
  obtain ⟨hexec, hran⟩ := step_ran hevent h hfault
  constructor
  · intro hstays
    exact hran.frame .pc fun hw => Bool.false_ne_true (hstays.symm.trans (transfersControl_of_writes_pc hw))
  · intro hskips
    simpa [BitVec.add_assoc] using skips_pc hskips hexec hfault

/-- Settles O16: a STEP overwrites the fields it is given before anything reads them. -/
theorem keysAreSampledAfresh : Obligations.KeysAreSampledAfresh := by
  intro s p r pressed released c hevent
  have hevent' : State.nextEvent { s with pressed := pressed, released := released, changed := c } = .step p r :=
    hevent
  unfold step
  rw [hevent, hevent']
  rfl

/-- No step changes the quirk flag or a parameter, nor the host's events once the first is taken. -/
theorem step_keeps_input {s t : State} (h : step s = .next t) :
    KeepsAllBut (fun p => p ≠ .quirk ∧ p ≠ .params ∧ p ≠ .host) s.takeEvent t := by
  obtain ⟨-, ⟨-, rfl⟩ | ⟨pressed, released, hevent, -⟩⟩ := step_cases h
  · exact (keepsAllBut_tick _).mono (by simp +contextual)
  · obtain ⟨f, rfl⟩ | ⟨-, hran⟩ := step_inversion hevent h
    · exact ((keepsAllBut_sampleKeys pressed released _).trans₂ (keepsAllBut_latch f _)).mono (by simp +contextual)
    · refine ((keepsAllBut_enterInstr pressed released _).trans₂ hran.frame).mono ?_
      rintro p (hp | hp)
      · simp only [parts_cons, parts_nil, or_false] at hp
        rcases hp with rfl | rfl | rfl <;> simp
      · refine ⟨?_, ?_, ?_⟩ <;> rintro rfl
        · exact not_writes_quirk hp
        · exact not_writes_params hp
        · exact not_writes_host hp

/-- Settles O60: every step that answers a next state has taken the event, and nothing after that touches the queue. -/
theorem eventsAreTakenInOrder : Obligations.EventsAreTakenInOrder := by
  constructor
  · intro s e es hevents
    obtain ⟨_, _, hqueue, hnext⟩ | ⟨hempty, -⟩ := s.nextEvent_cases
    · cases hevents.symm.trans hqueue
      exact hnext
    · cases hevents.symm.trans hempty
  · intro s t h
    exact step_keeps_input h .host (by simp)

end Sys2Proof.Machine
end

section
/-! The quirk flag (10_state.md R33, 90_conflicts.md C3). -/

namespace Sys2Proof.Machine

/-- Where `o` answers a next state, `o'` answers the same one, but for the quirk flag `q`. -/
def AnswersUnderQuirk (q : Bool) (o o' : Host.Outcome State Fault Refusal) : Prop :=
  ∀ t, o = .next t → o' = .next { t with q := q }

section
variable {q : Bool}

theorem AnswersUnderQuirk.next {t t' : State} (h : t' = { t with q := q }) :
    AnswersUnderQuirk q (.next t) (.next t') := by
  rintro _ ⟨⟩
  rw [h]

theorem AnswersUnderQuirk.ite {c : Prop} [Decidable c] {o₁ o₂ o₁' o₂' : Host.Outcome State Fault Refusal}
    (h₁ : AnswersUnderQuirk q o₁ o₁') (h₂ : AnswersUnderQuirk q o₂ o₂') :
    AnswersUnderQuirk q (if c then o₁ else o₂) (if c then o₁' else o₂') := by
  split
  · exact h₁
  · exact h₂

end

section
variable (q : Bool) (s : State)

theorem execRet_underQuirk : AnswersUnderQuirk q (execRet s) (execRet { s with q := q }) := by
  simp only [execRet]
  split
  · exact .next rfl
  · exact .next rfl

theorem execLdVxK_underQuirk (x : Reg) : AnswersUnderQuirk q (execLdVxK x s) (execLdVxK x { s with q := q }) := by
  have hkey : State.waitedKey { s with q := q } = s.waitedKey := rfl
  unfold execLdVxK
  rw [hkey]
  split
  · exact .next rfl
  · exact .next rfl

/-- An instruction that does not consult the quirk flag makes its next state from the other parts and keeps the flag. -/
theorem exec_underQuirk : ∀ i : Instr, i.consultsQuirk = false →
    AnswersUnderQuirk q (exec i s) (exec i { s with q := q })
  | .ret, _ => execRet_underQuirk q s
  | .ldVxK x, _ => execLdVxK_underQuirk q s x
  | .seImm _ _, _ | .sneImm _ _, _ | .seReg _ _, _ | .sneReg _ _, _ => .next (s.skipIf_of_q _ q)
  | .skp _, _ | .sknp _, _ => .ite (.next rfl) (.next (s.skipIf_of_q _ q))
  | .call _, _ | .drw _ _ _, _ | .addI _, _ | .ldB _, _ => .ite (.next rfl) (.next rfl)
  | .cls, _ | .jp _, _ | .nop _, _ => .next rfl
  | .ldImm _ _, _ | .addImm _ _, _ | .ldReg _ _, _ | .orReg _ _, _ | .andReg _ _, _ | .xorReg _ _, _ => .next rfl
  | .addReg _ _, _ | .subReg _ _, _ | .subnReg _ _, _ => .next rfl
  | .ldI _, _ | .ldF _, _ | .rnd _ _, _ | .ldVxDt _, _ | .ldDtVx _, _ | .ldStVx _, _ => .next rfl

end

/-- Settles O18: what does not consult the flag answers alike under either setting, and no step writes it. -/
theorem quirkFlagIsConstant : Obligations.QuirkFlagIsConstant :=
  ⟨fun i s t q hi h => exec_underQuirk q s i hi t h,
   fun _ _ h => ⟨step_keeps_input h .quirk (by simp), step_keeps_input h .params (by simp)⟩⟩

end Sys2Proof.Machine
end

section
/-! Single events: a fault of the fetch, a `TICK`, a faulted machine, the STEPs that only advance `pc` or stand still
(40_step_and_dispatch.md R95, 46_keys_and_timers.md R166 to R168, 70_reset_and_hazards.md R196). -/

namespace Sys2Proof.Machine

/-- Settles O7: the parity check comes before the bounds check, and each answers its own fault. -/
theorem fetchFaults : Obligations.FetchFaults := by
  intro s pressed released hfault hevent
  rw [← State.oddPcFaults_iff]
  obtain ⟨hodd, hfetch⟩ | ⟨heven, hin, -⟩ | ⟨heven, hout, hfetch⟩ := s.fetch_cases
  · exact ⟨fun _ => step_of_fetch_error hfault hevent hfetch, fun ⟨hnot, _⟩ => absurd hodd hnot⟩
  · exact ⟨fun hodd => absurd (heven.symm.trans hodd) Bool.false_ne_true, fun ⟨_, hout⟩ => absurd hin (by omega)⟩
  · exact ⟨fun hodd => absurd (heven.symm.trans hodd) Bool.false_ne_true,
      fun _ => step_of_fetch_error hfault hevent hfetch⟩

/-- The timer's decrement stops at 0 (R168). -/
theorem timerDown_toNat (b : Byte) : (if b = 0 then 0 else b - 1).toNat = b.toNat - 1 := by
  split
  · next hzero => rw [hzero]; rfl
  · bv_omega

theorem keepsAllBut_takeEvent_tick (s : State) :
    KeepsAllBut (parts [.delayTimer, .soundTimer, .host]) s s.takeEvent.tick :=
  ((keepsAllBut_takeEvent s).trans₂ (keepsAllBut_tick _)).mono (by simp +contextual)

/-- Settles O8: the `TICK` takes both timers down, and a latched fault is answered instead. -/
theorem tickDecrementsTimers : Obligations.TickDecrementsTimers := fun s hevent =>
  ⟨fun hfault => ⟨_, step_of_tick hfault hevent, timerDown_toNat s.dt, timerDown_toNat s.st,
    keepsAllBut_takeEvent_tick s⟩, fun _ => step_of_latched⟩

/-- Settles O9: the latch is looked at before the event. -/
theorem faultedMachineAcceptsNoEvent : Obligations.FaultedMachineAcceptsNoEvent := fun _ _ => step_of_latched

/-- Settles O19: an unmatched word is the no-op, whose STEP is the entry of the instruction and nothing more. -/
theorem nopOnlyAdvances : Obligations.NopOnlyAdvances := by
  have hnop : ∀ {w : Word}, unmatchedWord w = true → decodeWord w = .nop w := (decodeWord_eq_nop_iff_unmatchedWord _).2
  refine ⟨hnop rfl, hnop rfl, hnop rfl, fun _ _ => rfl, fun s pressed released hfetch hevent hword => ?_⟩
  refine ⟨s.takeEvent.enterInstr pressed released, ?_, rfl, rfl, ?_⟩
  · rw [step_of_canFetch hfetch hevent, hnop hword]
    rfl
  · exact ((keepsAllBut_takeEvent s).trans₂ (keepsAllBut_enterInstr pressed released _)).mono (by simp +contextual)

/-- The frame of a STEP after which `pc` is back where it was. -/
theorem keepsAllBut_stoodStill (pressed released : BitVec 16) (s : State) :
    KeepsAllBut (parts [.changed, .keys, .host]) s
      ((s.takeEvent.sampleKeys pressed released).setChanged (some false)) :=
  ((keepsAllBut_takeEvent s).trans₂ ((keepsAllBut_sampleKeys pressed released _).trans₂
    (keepsAllBut_setChanged _ _))).mono (by simp +contextual)

/-! fx0A waits, or stores the waited key (46_keys_and_timers.md R166, R167). -/

theorem State.waitedKey_eq_none_of_released {s : State} (h : ∀ k, k < 16 → s.released.getLsbD k = false) :
    s.waitedKey = none := by
  rw [State.waitedKey_eq_none, List.eq_nil_iff_forall_not_mem]
  intro k hk
  rw [mem_releasedKeys, h k k.isLt] at hk
  cases hk

theorem exec_ldVxK_of_none (x : Reg) {s : State} (h : s.waitedKey = none) :
    exec (.ldVxK x) s = .next (s.setPc (s.pc - 2)) := by
  change execLdVxK x s = _
  rw [execLdVxK, h]

theorem exec_ldVxK_of_some (x : Reg) {s : State} {k : Reg} (h : s.waitedKey = some k) :
    exec (.ldVxK x) s = .next (s.setReg x (BitVec.ofNat 8 k.val)) := by
  change execLdVxK x s = _
  rw [execLdVxK, h]

/-- Settles O54: with no key released fx0A takes the pre-increment back and does nothing else. -/
theorem waitingStepStandsStill : Obligations.WaitingStepStandsStill := by
  intro s x pressed hfetch hevent hword
  have hdecode : decodeWord (s.mem.wordAt s.pc.toNat) = .ldVxK x := decodeWord_of_encode_eq rfl hword.symm
  have hnone : (s.takeEvent.enterInstr pressed 0).waitedKey = none :=
    State.waitedKey_eq_none_of_released fun _ _ => BitVec.getLsbD_zero
  refine ⟨_, ?_, keepsAllBut_stoodStill pressed 0 s⟩
  rw [step_of_canFetch hfetch hevent, hdecode, exec_ldVxK_of_none x hnone,
    State.enterInstr_pc, enterInstr_setPc_back _ _ _ (pc_add_two_sub_two _)]

/-- An address a fetch can reach fits a jump's literal. -/
theorem placeNNN_fieldNNN_of_le {a : Word} (ha : a.toNat ≤ 0x0FFE) : placeNNN (fieldNNN a) = a := by
  apply BitVec.eq_of_toNat_eq
  simp [placeNNN, fieldNNN]
  omega

theorem State.EndOfRun.canFetch {s : State} (h : s.EndOfRun) : s.CanFetch where
  noFault := h.noFault
  parity := by rw [State.oddPcFaults, h.even, Bool.false_and]
  inside := h.inside

/-- A STEP at the end of a run jumps to where it is. -/
theorem State.EndOfRun.step_eq {s : State} (h : s.EndOfRun) {pressed released : BitVec 16}
    (hevent : s.nextEvent = .step pressed released) :
    step s = .next ((s.takeEvent.sampleKeys pressed released).setChanged (some false)) := by
  have htarget := placeNNN_fieldNNN_of_le h.inside
  have hdecode : decodeWord (s.mem.wordAt s.pc.toNat) = .jp (fieldNNN s.pc) :=
    decodeWord_of_encode_eq rfl (by rw [h.selfJump, encode, htarget])
  rw [step_of_canFetch h.canFetch hevent, hdecode]
  exact congrArg Host.Outcome.next (enterInstr_setPc_back _ _ s.takeEvent htarget)

/-- Settles O59: neither event changes `pc`, memory or the latch, which make the end of a run. -/
theorem endOfRunIsStable : Obligations.EndOfRunIsStable := by
  intro s h
  have ⟨hfault, heven, hin, hjump⟩ := h
  exact ⟨fun _ _ hevent => ⟨_, h.step_eq hevent, ⟨hfault, heven, hin, hjump⟩, keepsAllBut_stoodStill _ _ s⟩,
    fun hevent => ⟨_, step_of_tick hfault hevent, ⟨hfault, heven, hin, hjump⟩, keepsAllBut_takeEvent_tick s⟩⟩

end Sys2Proof.Machine
end

section
/-! Control transfer through the stack and with an offset (41_control_flow.md R101, R103, R108). -/

namespace Sys2Proof.Machine

section
variable {s : State}

theorem exec_ret_of_nil (hstack : s.stack = []) : exec .ret s = raise .emptyStackReturn s := by
  change execRet s = _
  rw [execRet, hstack]

theorem exec_ret_of_cons {e : Word} {rest : List Word} (hstack : s.stack = e :: rest) :
    exec .ret s = .next ((s.setPc e).setStack rest) := by
  change execRet s = _
  rw [execRet, hstack]

/-- The call's jump, where the stack has room. -/
theorem exec_call_of_room (nnn : Addr12) (hroom : s.params.stackDepth ≠ some s.depth) :
    exec (.call nnn) s = .next ((s.setPc (literalAddr nnn)).setStack (s.pc :: s.stack)) := if_neg hroom

end

/-- Settles O20: the top of the stack, where there is one, becomes `pc`. -/
theorem returnPopsTheStack : Obligations.ReturnPopsTheStack :=
  ⟨rfl, fun s _ _ hstack => ⟨_, exec_ret_of_cons hstack, rfl, rfl, keepsAllBut_setPc_setStack _ _ s⟩,
    fun _ hstack => ⟨_, exec_ret_of_nil hstack, rfl⟩⟩

/-- Settles O22: where the stack has room, the call writes the stack and `pc`. -/
theorem callPushesReturnAddress : Obligations.CallPushesReturnAddress := fun nnn s hroom =>
  ⟨_, exec_call_of_room nnn hroom, rfl, literalAddr_toNat nnn, keepsAllBut_setPc_setStack _ _ s⟩

/-- Settles O23: the return pops what the call pushed. -/
theorem callReturnRoundTrip : Obligations.CallReturnRoundTrip := by
  intro nnn s t u hroom hcall hstack
  cases hcall.symm.trans (exec_call_of_room nnn hroom)
  exact ⟨_, exec_ret_of_cons hstack, rfl, rfl⟩

/-- Settles O27: both fault before they write anything. -/
theorem stackFaults : Obligations.StackFaults := fun _ _ =>
  ⟨fun hstack => raise_takesFault (exec_ret_of_nil hstack), fun hfull => raise_takesFault (if_pos hfull)⟩

/-- The register bnnn adds: the quirk's `v[0]`, or the one the top digit of `nnn` names (R108). -/
theorem State.jumpOffsetReg_eq {nnn : Addr12} {x : Reg} (s : State) (hx : x.val = nnn.toNat / 256) :
    s.jumpOffsetReg nnn = if s.q then 0 else x := by
  have htop : (nnn.extractLsb' 8 4).toFin = x := by
    apply Fin.ext
    simp [hx, Nat.shiftRight_eq_div_pow]
    omega
  rw [State.jumpOffsetReg, htop]

/-- Settles O26: the register is the quirk's, and the sum does not wrap. -/
theorem jumpWithOffset : Obligations.JumpWithOffset := by
  intro nnn x s hx
  refine ⟨_, rfl, ?_, keepsAllBut_setPc _ s⟩
  rw [State.setPc_pc, jumpTarget_toNat, s.jumpOffsetReg_eq hx]
  split <;> rfl

end Sys2Proof.Machine
end

section
/-! Arithmetic and shifts (42_alu.md R117 to R121). -/

namespace Sys2Proof.Machine

theorem flagByte_decide (c : Prop) [Decidable c] : flagByte (decide c) = if c then 1 else 0 := by
  simp [flagByte]

/-- An instruction that ends in a result and a flag: what both are as numbers, and its frame (R113). -/
theorem exec_resultAndFlag {i : Instr} {s : State} {x : Reg} {r : Byte} {c : Bool} {n : Nat} {b : Prop} [Decidable b]
    (hexec : exec i s = .next (s.setResultAndFlag x r c)) (hr : r.toNat = n) (hc : c = decide b) :
    ∃ t, exec i s = .next t ∧ (x ≠ 15 → (t.reg x).toNat = n) ∧ t.reg 15 = (if b then 1 else 0) ∧
      KeepsAllBut (parts [.reg x, .reg 15]) s t := by
  refine ⟨_, hexec, fun hx => ?_, ?_, keepsAllBut_setResultAndFlag x r c s⟩
  · rw [State.setResultAndFlag_result hx, hr]
  · rw [State.setResultAndFlag_flag, hc, flagByte_decide]

section
variable (a b : Byte)

/-- The difference wraps when there is a borrow (R118). -/
theorem sub_toNat : (a - b).toNat = if b.toNat ≤ a.toNat then a.toNat - b.toNat else a.toNat + 256 - b.toNat := by
  split <;> bv_omega

theorem shiftLeft_one_toNat : (a <<< 1).toNat = a.toNat * 2 % 256 :=
  (BitVec.toNat_shiftLeft).trans (congrArg (· % 256) (Nat.shiftLeft_eq a.toNat 1))

theorem bitOutRight_eq : bitOutRight a = decide (a.toNat % 2 = 1) := Nat.testBit_zero _

theorem bitOutLeft_eq : bitOutLeft a = decide (128 ≤ a.toNat) :=
  (BitVec.msb_eq_getLsbD_last a).symm.trans (BitVec.msb_eq_decide a)

end

/-- Settles O30: the byte sum wraps where the exact sum does not fit. -/
theorem addSetsCarry : Obligations.AddSetsCarry := fun _ _ _ =>
  ⟨rfl, exec_resultAndFlag rfl (BitVec.toNat_add _ _) rfl⟩

/-- Settles O31: both subtract, the second with its operands reversed. -/
theorem subtractSetsNoBorrow : Obligations.SubtractSetsNoBorrow := fun _ _ _ =>
  ⟨exec_resultAndFlag rfl (sub_toNat _ _) rfl, exec_resultAndFlag rfl (sub_toNat _ _) rfl⟩

/-- The shifted byte, by the quirk and the polarity (R120). -/
theorem State.shiftSource_toNat (x y : Reg) (s : State) : (s.shiftSource x y).toNat =
    if s.q = s.params.shiftCopyPolarity then (s.reg y).toNat else (s.reg x).toNat := by
  simp only [State.shiftSource, beq_iff_eq]
  split <;> rfl

/-- Settles O32: both shift the same source, and the flag is the bit that leaves it. -/
theorem shiftsFollowThePolarity : Obligations.ShiftsFollowThePolarity := by
  intro x y s b hb
  rw [← State.shiftSource_toNat] at hb
  subst hb
  exact ⟨exec_resultAndFlag rfl (toNat_ushiftRight_eq_div _ 1) (bitOutRight_eq _),
    exec_resultAndFlag rfl (shiftLeft_one_toNat _) (bitOutLeft_eq _)⟩

end Sys2Proof.Machine
end

section
/-! The index register: the exact sum of fx1E (43_index_and_memory.md R132). -/

namespace Sys2Proof.Machine

/-- Settles O36: the sum fits the register, or the fault carries it. -/
theorem addToIndex : Obligations.AddToIndex := fun _ s =>
  ⟨fun hfits => ⟨_, if_neg (Nat.not_lt.2 hfits), Nat.mod_eq_of_lt (Nat.lt_succ_of_le hfits), keepsAllBut_setI _ s⟩,
    fun hover => raise_takesFault (if_pos hover)⟩

end Sys2Proof.Machine
end

section
/-! The keys (46_keys_and_timers.md R161, R162, R166). -/

namespace Sys2Proof.Machine

theorem State.skipIf_not_pc (c : Bool) (s : State) : (s.skipIf (!c)).pc = if c then s.pc else s.pc + 2 := by
  cases c <;> rfl

/-- Settles O51: both are the skip, on the key's bit and on its negation, under the same check. -/
theorem keySkips : Obligations.KeySkips := fun _ s =>
  ⟨fun hkey =>
    ⟨⟨_, if_neg (Nat.not_lt.2 hkey), s.skipIf_pc _, keepsAllBut_skipIf _ s⟩,
     ⟨_, if_neg (Nat.not_lt.2 hkey), State.skipIf_not_pc _ s, keepsAllBut_skipIf _ s⟩⟩,
   fun hover => ⟨raise_takesFault (if_pos hover), raise_takesFault (if_pos hover)⟩⟩

/-- Settles O53: the waited key is none exactly when none is released, and else a released one. -/
theorem waitForKeyRelease : Obligations.WaitForKeyRelease := by
  intro x s
  constructor
  · intro hnone
    exact ⟨_, exec_ldVxK_of_none x (State.waitedKey_eq_none_of_released hnone), rfl, keepsAllBut_setPc _ s⟩
  · rintro ⟨j, hj, hreleased⟩
    have hsome : s.waitedKey ≠ none := by
      rw [ne_eq, State.waitedKey_eq_none]
      exact List.ne_nil_of_mem ((mem_releasedKeys s.released ⟨j, hj⟩).2 hreleased)
    obtain ⟨k, hk⟩ := Option.ne_none_iff_exists'.1 hsome
    refine ⟨_, k.val, exec_ldVxK_of_some x hk, k.isLt, (mem_releasedKeys _ k).1 (State.waitedKey_mem hk), ?_,
      keepsAllBut_setReg x _ s⟩
    rw [State.setReg_reg_toNat]
    exact Nat.mod_eq_of_lt (by omega)

end Sys2Proof.Machine
end

section
/-! Construction: the registers and the invariant (92_eei_decisions.md D15, D28). -/

namespace Sys2Proof.Machine

/-- The machine construction answers when its inputs are within bounds (70_reset_and_hazards.md R190). -/
def State.constructed (p : Params) (glyphs : List Byte) (q : Bool) (seed : RngWord) (valid : Bool) (rom : List Byte) :
    State :=
  { State.reset with
    mem := constructMemory glyphs rom, rng := seed, q := q, params := p,
    fault := if valid then none else some .entropyUnavailable }

section
variable {p : Params} {glyphs rom : List Byte} {q valid : Bool} {seed : RngWord}

/-- Construction answers a machine exactly for a table of 80 bytes and a ROM that fits (R191). -/
theorem State.construct_eq_next_iff {t : State} : State.construct p glyphs q seed valid rom = .next t ↔
    glyphs.length = 80 ∧ rom.length ≤ maxRomLen ∧ State.constructed p glyphs q seed valid rom = t := by
  unfold State.construct
  by_cases hg : glyphs.length = 80
  · by_cases hr : maxRomLen < rom.length
    · simp [hg, hr]
    · simp [hg, hr, Nat.not_lt.1 hr, State.constructed]
  · simp [hg]

theorem constructMemory_wf (hg : glyphs.length = 80) (hr : rom.length ≤ maxRomLen) :
    (constructMemory glyphs rom).wf = true :=
  Memory.writeBytes_wf (Memory.writeBytes_glyphs_wf hg) (Nat.add_le_add_left hr 0x200)

end

/-- The default glyph table is what memory reads as with nothing listed, so nothing is listed. -/
theorem constructMemory_default : constructMemory Config.glyphs [] = [] := by decide

theorem State.reset_reg (k : Reg) : State.reset.reg k = 0 := by simp [State.reg, State.reset]

/-- Settles O56: construction starts from the reset machine, and the default inputs give that machine itself. -/
theorem constructedRegisters : Obligations.ConstructedRegisters := by
  constructor
  · intro p glyphs rom q valid seed hg hr
    exact ⟨_, State.construct_eq_next_iff.2 ⟨hg, hr, rfl⟩, rfl, rfl, State.reset_reg, rfl, rfl, rfl, fun _ => rfl,
      rfl, rfl, rfl, rfl⟩
  · refine State.construct_eq_next_iff.2 ⟨rfl, Nat.zero_le _, ?_⟩
    rw [State.constructed, constructMemory_default]
    rfl

theorem State.reset_inv : State.reset.Inv where
  memory := rfl
  screen := rfl
  pcBound := by decide
  stackBound _ he := absurd he List.not_mem_nil
  stackEven _ _ he := absurd he List.not_mem_nil
  depthBound _ _ := Nat.zero_le _

/-- Settles O57: of what the invariant speaks of, construction sets only memory and the parameters. -/
theorem invariantAtConstruction : Obligations.InvariantAtConstruction := by
  refine ⟨State.reset_inv, fun p glyphs rom q valid seed t h => ?_⟩
  obtain ⟨hg, hr, rfl⟩ := State.construct_eq_next_iff.1 h
  exact { State.reset_inv with
    memory := constructMemory_wf hg hr
    screen := rfl
    stackEven := fun _ _ he => absurd he List.not_mem_nil
    depthBound := fun _ _ => Nat.zero_le _ }

end Sys2Proof.Machine
end

section
/-! The memory instructions fx33, fx55 and fx65 (43_index_and_memory.md R134 to R136, 20_memory.md R56). -/

namespace Sys2Proof.Machine

section
variable {x : Reg} {s : State}

/-! What fx33, fx55 and fx65 do when their whole block is inside memory. -/

theorem exec_ldB_of_inside (x : Reg) (hin : s.i.toNat + 2 ≤ 4095) :
    exec (.ldB x) s = .next (s.storeBytes s.i.toNat (decimalDigits (s.reg x))) :=
  if_pos ((accessInRange_iff _ _).2 (.inr (by omega)))

variable (hin : s.i.toNat + x.val ≤ 4095)
include hin

theorem regsBlock_inRange : accessInRange s.i.toNat (x.val + 1) = true := (accessInRange_iff _ _).2 (.inr (by omega))

theorem exec_storeRegs_of_inside :
    exec (.storeRegs x) s = .next ((s.storeBytes s.i.toNat (s.regsUpTo x)).postIncrement x) :=
  if_pos (regsBlock_inRange hin)

theorem exec_loadRegs_of_inside : exec (.loadRegs x) s = .next ((s.setV (s.loadedRegs x)).postIncrement x) :=
  if_pos (regsBlock_inRange hin)

theorem regsUpTo_fits : s.i.toNat + (s.regsUpTo x).length ≤ memSize := by
  rw [s.regsUpTo_length]
  exact Nat.succ_le_succ hin

/-- After fx55 the byte at `i + k` is `v[k]` (R135). -/
theorem storedRegs_read (hwf : s.mem.wf = true) {k : Reg} (hk : k ≤ x) :
    ((s.storeBytes s.i.toNat (s.regsUpTo x)).postIncrement x).mem.read (s.i.toNat + k.val) = s.reg k := by
  have hlen : k.val < (s.regsUpTo x).length := by
    rw [s.regsUpTo_length]
    exact Nat.lt_succ_of_le hk
  rw [State.postIncrement_mem, State.storeBytes_mem, Memory.read_writeBytes_at hwf (regsUpTo_fits hin) hlen,
    State.regsUpTo_getD x s k hk]

/-- The post-increment does not wrap: it ends at most one past memory. -/
theorem State.postIncrement_i_toNat {t : State} (hi : t.i = s.i) (hq : t.q = s.q) :
    (t.postIncrement x).i.toNat = if s.q then s.i.toNat + x.val + 1 else s.i.toNat := by
  rw [State.postIncrement_i, hi, hq]
  split
  · simp only [BitVec.toNat_add, BitVec.toNat_ofNat]
    omega
  · rfl

end

theorem decimalDigits_toNat (b : Byte) :
    ((decimalDigits b).getD 0 0).toNat = b.toNat / 100 ∧ ((decimalDigits b).getD 1 0).toNat = b.toNat / 10 % 10 ∧
      ((decimalDigits b).getD 2 0).toNat = b.toNat % 10 := ⟨rfl, rfl, rfl⟩

/-- Settles O37: the three bytes stored are the digits. -/
theorem storeDecimalDigits : Obligations.StoreDecimalDigits := by
  intro x s hwf hin
  have hfits : s.i.toNat + (decimalDigits (s.reg x)).length ≤ memSize := Nat.succ_le_succ hin
  have hread {k : Nat} (hk : k < 3) :
      (s.storeBytes s.i.toNat (decimalDigits (s.reg x))).mem.read (s.i.toNat + k) =
        (decimalDigits (s.reg x)).getD k 0 :=
    Memory.read_writeBytes_at hwf hfits hk
  obtain ⟨hundreds, tens, ones⟩ := decimalDigits_toNat (s.reg x)
  refine ⟨_, exec_ldB_of_inside x hin, ?_, ?_, ?_, keepsAllBut_storeBytes hwf hfits⟩
  · exact (congrArg BitVec.toNat (hread (k := 0) (by decide))).trans hundreds
  · exact (congrArg BitVec.toNat (hread (by decide))).trans tens
  · exact (congrArg BitVec.toNat (hread (by decide))).trans ones

/-- Settles O38: the block stored is `v[0]` to `v[x]`. -/
theorem storeRegisters : Obligations.StoreRegisters := by
  intro x s hwf hin
  have hstored := keepsAllBut_storeBytes hwf (regsUpTo_fits hin)
  rw [s.regsUpTo_length] at hstored
  exact ⟨_, exec_storeRegs_of_inside hin, fun _ => storedRegs_read hin hwf, State.postIncrement_i_toNat hin rfl rfl,
    (hstored.trans₂ (keepsAllBut_postIncrement x _)).mono (by simp)⟩

/-- Settles O39: the registers up to `x` are read from the block, with the `i` of before. -/
theorem loadRegisters : Obligations.LoadRegisters := by
  intro x s hin
  refine ⟨_, exec_loadRegs_of_inside hin, fun k hk => ?_,
    State.postIncrement_i_toNat hin (State.setV_i ..) (State.setV_q ..),
    keepsAllBut_setV_postIncrement x s⟩
  rw [State.postIncrement_reg, State.setV_loadedRegs_reg, if_pos hk]

/-- Settles O41: the load reads at `i + k` what the store put there. -/
theorem storeThenLoadRegisters : Obligations.StoreThenLoadRegisters := by
  intro x k s t u hwf hin hk hstore hmem hi
  cases hstore.symm.trans (exec_storeRegs_of_inside hin)
  obtain ⟨w, hload, hregs, -⟩ := loadRegisters x u (by rw [hi]; exact hin)
  refine ⟨w, hload, ?_⟩
  rw [hregs k hk, hmem, hi, storedRegs_read hin hwf hk]

/-- Settles O42: the fetch reads the two stored bytes, and both lie in memory. -/
theorem storedCodeIsFetched : Obligations.StoredCodeIsFetched := by
  intro x k s t u k' hwf hin hnext hk' hstore hmem hpc hodd
  cases hstore.symm.trans (exec_storeRegs_of_inside hin)
  have hx : k'.val ≤ x.val := hk'
  have hk : k ≤ x := Fin.le_def.2 (by omega)
  rw [State.fetch_ok hodd (by omega), Memory.wordAt, hmem, hpc, storedRegs_read hin hwf hk, Nat.add_assoc, ← hnext,
    storedRegs_read hin hwf hk', wordOfBytes]

/-- The check of dxyn is that its drawn rows lie in memory (R143). -/
theorem spriteInMemory_iff {y : Reg} {n : RowCount} {s : State} :
    SpriteInMemory y n s ↔ accessInRange s.i.toNat (s.drawnRows y n) = true := by
  refine ⟨SpriteInMemory.accessInRange, fun hin r hrow hheight => ?_⟩
  have hr : r < s.drawnRows y n := State.lt_drawnRows_iff.2 ⟨hrow, hheight⟩
  rw [accessInRange_iff] at hin
  change s.i.toNat + r < 4096
  omega

/-- Settles O40: each checks its whole access before any of it takes effect. -/
theorem dataAccessFaults : Obligations.DataAccessFaults := by
  intro x y n s
  have hblock {count : Nat} (hout : 4095 < s.i.toNat + count) : ¬ accessInRange s.i.toNat (count + 1) = true := by
    rw [accessInRange_iff]
    omega
  exact ⟨fun hout => raise_takesFault (if_neg (hblock hout)), fun hout => raise_takesFault (if_neg (hblock hout)),
    fun hout => raise_takesFault (if_neg (hblock hout)),
    fun hout => raise_takesFault (if_neg (mt spriteInMemory_iff.2 hout))⟩

end Sys2Proof.Machine
end

section
/-! The screen: the clear and the draw (44_display.md R141, R142). -/

namespace Sys2Proof.Machine

/-- Settles O44: the blank screen has no cell on. -/
theorem clearScreen : Obligations.ClearScreen :=
  ⟨rfl, fun s => ⟨_, rfl, Screen.isOn_nil, (keepsAllBut_setFb [] s).mono fun _ ⟨c, hc, _⟩ => ⟨c, hc⟩⟩⟩

section
variable {x y : Reg} {n : RowCount} {s : State}

/-- Of the cells of one screen row, each has its own number. -/
theorem State.drawnCells_cellAt_iff {cx cy : Nat} (hx : cx < s.params.width) :
    s.drawnCells x y n (cellAt s.params cx cy) ↔ SpriteCovers x y n s cx cy = true := by
  rw [State.drawnCells_iff]
  constructor
  · rintro ⟨dx, dy, hcovers, hcell⟩
    obtain ⟨⟨hdx, -⟩, -⟩ := spriteCovers_iff.1 hcovers
    obtain ⟨rfl, rfl⟩ := cellAt_inj hx hdx hcell
    exact hcovers
  · exact fun hcovers => ⟨cx, cy, hcovers, rfl⟩

/-! What painting the drawn cells means, in terms of the cells the sprite covers (R142). -/

section
variable (h : Paints s.params (s.drawnCells x y n) ⟨s.fb, false⟩ (s.drawSprite x y n))
include h

theorem Paints.sprite_isOn {cx cy : Nat} (hx : cx < s.params.width) :
    (s.drawSprite x y n).fb.isOn (cellAt s.params cx cy) =
      (s.fb.isOn (cellAt s.params cx cy) ^^ SpriteCovers x y n s cx cy) := by
  have hdrawn := State.drawnCells_cellAt_iff (x := x) (y := y) (n := n) (cy := cy) hx
  cases hcovers : SpriteCovers x y n s cx cy
  · rw [h.keeps _ (by rw [hdrawn, hcovers]; exact Bool.false_ne_true), Bool.xor_false]
  · rw [h.flips _ (hdrawn.2 hcovers), Bool.xor_true]

theorem Paints.sprite_hit : (s.drawSprite x y n).hit = true ↔
    ∃ cx cy, SpriteCovers x y n s cx cy = true ∧ s.fb.isOn (cellAt s.params cx cy) = true := by
  simp only [h.hit, Bool.false_eq_true, false_or, State.drawnCells_iff]
  constructor
  · rintro ⟨_, ⟨cx, cy, hcovers, rfl⟩, hon⟩
    exact ⟨cx, cy, hcovers, hon⟩
  · rintro ⟨cx, cy, hcovers, hon⟩
    exact ⟨_, ⟨cx, cy, hcovers, rfl⟩, hon⟩

theorem Paints.sprite_changed {c : Nat} (hc : (s.drawSprite x y n).fb.isOn c ≠ s.fb.isOn c) :
    ∃ cx cy, c = cellAt s.params cx cy ∧ SpriteCovers x y n s cx cy = true := by
  obtain ⟨cx, cy, hcovers, hcell⟩ := (State.drawnCells_iff c).1 (not_imp_comm.1 (h.keeps c) hc)
  exact ⟨cx, cy, hcell, hcovers⟩

end

end

/-- Settles O45: the draw paints the cells the sprite covers, and its flag is whether one of them was on. -/
theorem drawXorsTheSprite : Obligations.DrawXorsTheSprite := by
  intro x y n s hwf hmem
  have hpaints : Paints s.params (s.drawnCells x y n) ⟨s.fb, false⟩ (s.drawSprite x y n) :=
    State.drawSprite_paints hwf x y n
  refine ⟨_, exec_drw_of_spriteInMemory x hmem, fun cx cy hx _ => hpaints.sprite_isOn hx, ?_, ?_, rfl, ?_⟩
  · rw [State.afterDraw_flag, flagByte_eq_one_iff]
    exact hpaints.sprite_hit
  · rw [State.afterDraw_flag]
    exact flagByte_zero_or_one _
  · refine (s.keepsAllBut_afterDraw x y n).mono ?_
    rintro p (⟨c, rfl, hc⟩ | rfl | rfl)
    · obtain ⟨cx, cy, rfl, hcovers⟩ := hpaints.sprite_changed hc
      exact .inr (.inr ⟨cx, cy, rfl, hcovers⟩)
    · exact .inl rfl
    · exact .inr (.inl rfl)

end Sys2Proof.Machine
end
